-- ==== Sys2Proof/Word.lean ====
section
/-! DEFINITION. The word types of the gsi035 hash-expander core. -/

namespace Sys2Proof

/-- A byte of the register window or of a hash input (R12, R43). -/
abbrev Byte := BitVec 8

/-- A register or bus word (R11). -/
abbrev Word := BitVec 32

/-- A Keccak lane (R83). -/
abbrev Lane := BitVec 64

end Sys2Proof
end

