-- ==== Sys2Proof/Config.lean ====
section
/-! DEFINITION. What one part fixes (the parameters of 00_scope.md R8) and the free values of the spec. -/

namespace Sys2Proof

/-- The hash engines a GEN can name (R2, R69). -/
inductive Hash where
  | sha256
  | keccak256
  deriving DecidableEq, Repr

/-- P_HASH_SET, a non-empty subset of the two engines (R8). -/
inductive HashSet where
  | shaOnly
  | keccakOnly
  | both
  deriving DecidableEq, Repr

/-- Membership in P_HASH_SET. -/
def HashSet.has : HashSet → Hash → Bool
  | .shaOnly, h => h == .sha256
  | .keccakOnly, h => h == .keccak256
  | .both, _ => true

/-- The implementation parameters of R8. Every value of this type is legal: P_MAX_SEED is
`32 * (seedSize + 2)`, so it runs over the multiples of 32 from 64 to 512. -/
structure Params where
  seedSize : Fin 15
  hashes : HashSet
  extend : Bool
  deriving DecidableEq, Repr

/-- P_MAX_SEED in 32-bit words: the MAXSEED_W field of ID (R21). -/
def Params.maxSeedWords (p : Params) : Nat := p.seedSize.val + 2

/-- P_MAX_SEED (R8). -/
def Params.maxSeed (p : Params) : Nat := 32 * p.maxSeedWords

/-- P_MAX_KEY = 4 · P_MAX_SEED (R8). -/
def Params.maxKey (p : Params) : Nat := 4 * p.maxSeed

/-- P_MAX_MSG = P_MAX_KEY (R8). -/
def Params.maxMsg (p : Params) : Nat := p.maxKey

/-- P_DIGEST_BITS, fixed (R8). -/
abbrev Config.digestBits : Nat := 256

/-- P_BASE, the host address of offset 0x000 of the register window: OPEN (R8, R39). -/
opaque Config.pBase : Nat

/-- P_LATENCY, OPEN (R8, R127): how many further steps pass between an accept and its completion. The argument is
the number of the draw, so that each accepted command has a latency of its own. Finite, since it is a `Nat`. -/
opaque Config.latency : Nat → Nat

/-- The unspecified word a read of a length register or buffer word returns while BUSY (R49). The argument is the
number of the draw. -/
opaque Config.busyRead : Nat → Word

/-- The default parameters of R8: P_MAX_SEED = 256, both engines, extension present. -/
def Config.defaultParams : Params := { seedSize := 6, hashes := .both, extend := true }

end Sys2Proof
end

