-- ==== Sys2Proof/Syntax.lean ====
section
/-! DEFINITION. The command set: one constructor for each row of spec/opcode_table.json. -/

namespace Sys2Proof

/-- The nine legal command words of 30_encoding.md R60 and R65, named by their mnemonics. A command has no explicit
operand: its operands and its destination are implicit buffers (R59). -/
inductive Instr where
  /-- GEN.SHA256, word 0x01 (R67). -/
  | genSha256
  /-- GEN.KECCAK, word 0x11 (R67). -/
  | genKeccak
  /-- GEN.SHA256.X, word 0x21 (R67). -/
  | genSha256X
  /-- GEN.KECCAK.X, word 0x31 (R67). -/
  | genKeccakX
  /-- ENC, word 0x02 (R91). -/
  | enc
  /-- ENC.STRICT, word 0x42 (R91). -/
  | encStrict
  /-- DEC, word 0x03 (R95). -/
  | dec
  /-- DEC.STRICT, word 0x43 (R95). -/
  | decStrict
  /-- CLEAR, word 0x04 (R99). -/
  | clear
  deriving DecidableEq, Repr

end Sys2Proof
end

