-- ==== Sys2Proof/WellFormed.lean ====
section
/-! DEFINITION. Which commands a part has: the availability conditions of 30_encoding.md R61 (the opcode table's
"legal_only_if"). -/

namespace Sys2Proof

/-- The hash engine a command needs, if it needs one (R61). -/
def Instr.hash? : Instr → Option Hash
  | .genSha256 | .genSha256X => some .sha256
  | .genKeccak | .genKeccakX => some .keccak256
  | .enc | .encStrict | .dec | .decStrict | .clear => none

/-- Whether a command needs the length-extension logic (R61). -/
def Instr.needsExtend : Instr → Bool
  | .genSha256X | .genKeccakX => true
  | .genSha256 | .genKeccak | .enc | .encStrict | .dec | .decStrict | .clear => false

/-- Check 1: the hash engine the command selects is in P_HASH_SET. -/
def Instr.hashPresent (p : Params) (i : Instr) : Bool :=
  match i.hash? with
  | none => true
  | some h => p.hashes.has h

/-- Check 2: the extension logic is present if the command asks for it. -/
def Instr.extendPresent (p : Params) (i : Instr) : Bool :=
  !i.needsExtend || p.extend

/-- A command is well-formed on a part that has what it needs. -/
def Instr.wellFormed (p : Params) (i : Instr) : Bool :=
  i.hashPresent p && i.extendPresent p

end Sys2Proof
end

