-- ==== Sys2Proof/Decode.lean ====
section
/-! DEFINITION. Decoding and encoding of the 32-bit command word CMD32 (30_encoding.md R58 to R64). -/

namespace Sys2Proof

/-- Why a command word, or a run of bytes, is no legal command: the list of R62, by name. -/
inductive DecodeError where
  /-- Fewer than four bytes: no command word at all (R64). -/
  | truncated
  /-- OP is 0x0 or 0x5 to 0xF. -/
  | opUnassigned
  /-- GEN with STRICT = 1. -/
  | strictOnGen
  /-- ENC or DEC with HSEL or XTND set. -/
  | modeOnCipher
  /-- CLEAR with HSEL, XTND or STRICT set. -/
  | modeOnClear
  /-- A bit of RES (31:7) is set. -/
  | reservedSet
  /-- GEN selects a hash engine not in P_HASH_SET. -/
  | hashAbsent
  /-- GEN with XTND = 1 where P_EXTEND is false. -/
  | extendAbsent
  deriving DecidableEq, Repr

/-- OP, bits 3:0 of a command word (R58). -/
def fieldOp (v : Word) : BitVec 4 := v.extractLsb' 0 4

/-- HSEL, bit 4 (R58). -/
def fieldHsel (v : Word) : Bool := v.getLsbD 4

/-- XTND, bit 5 (R58). -/
def fieldXtnd (v : Word) : Bool := v.getLsbD 5

/-- STRICT, bit 6 (R58). -/
def fieldStrict (v : Word) : Bool := v.getLsbD 6

/-- RES, bits 31:7 (R58). -/
def fieldRes (v : Word) : BitVec 25 := v.extractLsb' 7 25

/-- The GEN command of given HSEL and XTND (R60). -/
def genOf (hsel xtnd : Bool) : Instr :=
  match hsel, xtnd with
  | false, false => .genSha256
  | true, false => .genKeccak
  | false, true => .genSha256X
  | true, true => .genKeccakX

/-- The ENC command of given STRICT (R60). -/
def encOf (strict : Bool) : Instr := if strict then .encStrict else .enc

/-- The DEC command of given STRICT (R60). -/
def decOf (strict : Bool) : Instr := if strict then .decStrict else .dec

/-- Decoding of a command word, field by field (R58, R60, R62): total on all 2^32 words (R63). -/
def decodeWord (v : Word) : Except DecodeError Instr :=
  if fieldOp v = 0x1#4 then
    if fieldStrict v then .error .strictOnGen
    else if fieldRes v ≠ 0 then .error .reservedSet
    else .ok (genOf (fieldHsel v) (fieldXtnd v))
  else if fieldOp v = 0x2#4 then
    if fieldHsel v || fieldXtnd v then .error .modeOnCipher
    else if fieldRes v ≠ 0 then .error .reservedSet
    else .ok (encOf (fieldStrict v))
  else if fieldOp v = 0x3#4 then
    if fieldHsel v || fieldXtnd v then .error .modeOnCipher
    else if fieldRes v ≠ 0 then .error .reservedSet
    else .ok (decOf (fieldStrict v))
  else if fieldOp v = 0x4#4 then
    if fieldHsel v || fieldXtnd v || fieldStrict v then .error .modeOnClear
    else if fieldRes v ≠ 0 then .error .reservedSet
    else .ok .clear
  else .error .opUnassigned

/-- What the accept of a word on a part finds (R61): the decoded command, if the part has what it needs. -/
def acceptWord (p : Params) (v : Word) : Except DecodeError Instr :=
  match decodeWord v with
  | .error e => .error e
  | .ok i =>
    if i.hashPresent p then
      if i.extendPresent p then .ok i else .error .extendAbsent
    else .error .hashAbsent

/-- The word of four bytes at rising addresses: byte 0 is bits 7:0 (R43). -/
def wordOfBytes (b0 b1 b2 b3 : Byte) : Word := b3 ++ b2 ++ b1 ++ b0

/-- The four bytes of a word, lowest address first (R43). -/
def bytesOfWord (v : Word) : List Byte :=
  [v.extractLsb' 0 8, v.extractLsb' 8 8, v.extractLsb' 16 8, v.extractLsb' 24 8]

/-- Decoding of bytes as they lie on the bus, lowest offset first: the command of the first four bytes and the
bytes after it. -/
def decode : List Byte → Except DecodeError (Instr × List Byte)
  | b0 :: b1 :: b2 :: b3 :: rest =>
    match decodeWord (wordOfBytes b0 b1 b2 b3) with
    | .ok i => .ok (i, rest)
    | .error e => .error e
  | _ => .error .truncated

/-- OP of a command (R58). -/
def opOf : Instr → BitVec 4
  | .genSha256 | .genKeccak | .genSha256X | .genKeccakX => 0x1
  | .enc | .encStrict => 0x2
  | .dec | .decStrict => 0x3
  | .clear => 0x4

/-- HSEL of a command: 1 selects Keccak-256 (R58). -/
def hselOf : Instr → Bool
  | .genKeccak | .genKeccakX => true
  | .genSha256 | .genSha256X | .enc | .encStrict | .dec | .decStrict | .clear => false

/-- XTND of a command (R58). -/
def xtndOf : Instr → Bool
  | .genSha256X | .genKeccakX => true
  | .genSha256 | .genKeccak | .enc | .encStrict | .dec | .decStrict | .clear => false

/-- STRICT of a command (R58). -/
def strictOf : Instr → Bool
  | .encStrict | .decStrict => true
  | .genSha256 | .genKeccak | .genSha256X | .genKeccakX | .enc | .dec | .clear => false

/-- The command word: RES ‖ STRICT ‖ XTND ‖ HSEL ‖ OP (R58). -/
def encode (i : Instr) : Word :=
  0#25 ++ BitVec.ofBool (strictOf i) ++ BitVec.ofBool (xtndOf i) ++ BitVec.ofBool (hselOf i) ++ opOf i

/-- The command word as the four bytes of its bus write. -/
def encodeBytes (i : Instr) : List Byte := bytesOfWord (encode i)

/-- The legality formula of R61 as its masks and matches write it. -/
def legalWord (p : Params) (v : Word) : Bool :=
  ((v &&& 0xFFFFFFCF#32) == 0x00000001#32
      && (!v.getLsbD 4 || p.hashes.has .keccak256)
      && (v.getLsbD 4 || p.hashes.has .sha256)
      && (!v.getLsbD 5 || p.extend))
    || (v &&& 0xFFFFFFBF#32) == 0x00000002#32
    || (v &&& 0xFFFFFFBF#32) == 0x00000003#32
    || v == 0x00000004#32

/-- The host's question about one row of the opcode table: the command the decoder reads from `nbits` bits `w`,
laid out as the four bytes of a CMD write. Bits above `nbits` are 0; a command has no more than 32 bits (R64). -/
def decodeTableWord (nbits w : Nat) : Option Instr :=
  if nbits ≤ 32 then
    match decode (bytesOfWord (BitVec.ofNat 32 (w % 2 ^ nbits))) with
    | .ok (i, _) => some i
    | .error _ => none
  else none

end Sys2Proof
end

