-- ==== Sys2Proof/Machine/State.lean ====
section
/-! DEFINITION. The state of the gsi035 hash-expander core: everything 10_state.md R20 lists, as plain data, with the
host's pending lines and the part's parameters beside it. -/

namespace Sys2Proof.Machine

/-- The four bit buffers (R33). Each has a length register of the same name (R29 to R32). -/
inductive Buf where
  | seed
  | key
  | msg
  | out
  deriving DecidableEq, Repr

/-- The operation of an accepted command (R34). -/
inductive Op where
  | gen
  | enc
  | dec
  | clear
  deriving DecidableEq, Repr

/-- The fields of the accepted command word that ENG latches (R34). -/
structure Command where
  op : Op
  hsel : Bool
  xtnd : Bool
  strict : Bool
  deriving DecidableEq, Repr

/-- ENG, the hidden engine state (R34). -/
inductive Engine where
  | idle
  | busy (cmd : Command)
  deriving DecidableEq, Repr

/-- The error codes of R103 that a command can end with. -/
inductive ErrorCode where
  | keyTooLong
  | lengthMismatch
  | illegalCmd
  | lengthRange
  deriving DecidableEq, Repr

/-- The width of a host transaction (R42). -/
inductive Width where
  | byte
  | half
  | word
  deriving DecidableEq, Repr

/-- The value of a script's WR line: a number, or a name an earlier RD bound (R66). Names are numbered. -/
inductive HostVal where
  | lit (v : Word)
  | name (n : Nat)
  deriving DecidableEq, Repr

/-- Where a host transaction goes: an offset in the block's window, as the spec's MemRead and MemWrite and its scripts
write it (R13, R66), or an address in the host's own map, where offset 0x000 stands at P_BASE (R39). -/
inductive HostAddr where
  | offset (off : Nat)
  | host (addr : Nat)
  deriving DecidableEq, Repr

/-- One line of what the host does next (R17, R66). -/
inductive HostOp where
  /-- One write transaction. The width of a correct host is `word` (R42). -/
  | wr (w : Width) (addr : HostAddr) (v : HostVal)
  /-- One read transaction, its result bound to a name. -/
  | rd (w : Width) (addr : HostAddr) (name : Nat)
  /-- The loop of R66: read STATUS, bind it to the name, and again while BUSY reads 1. -/
  | poll (name : Nat)
  /-- The reset event (R17, R120). -/
  | reset
  deriving DecidableEq, Repr

/-- The bytes of the register window that are memory: the four buffers. Pairs of byte offset and byte, offsets
strictly rising, no entry equal to what an unlisted offset reads as. -/
abbrev Memory := List Host.Cell

/-- Why a run stops with a fault. -/
inductive Fault where
  /-- A host transaction that is not an aligned 32-bit access: the bus error of R42 and R108, which the spec itself
  calls a host fault in the model. Raised by a host line `wr` or `rd`; safe: the block's state does not change. -/
  | busError
  /-- A host transaction whose address is outside the 4096-byte window (R39), so not one of this block's. Raised by a
  host line `wr` or `rd`; safe. -/
  | outsideWindow
  deriving DecidableEq, Repr

/-- Why a step has no meaning. -/
inductive Refusal where
  /-- The command named is rejected by name in `exec`: it has no meaning yet. No arm of this model says so. Safe. -/
  | notModelled (mnemonic : String)
  /-- A host script's WR line names a value no RD line has bound (R66). Raised by a host line `wr`; no command of the
  block is involved. Safe. -/
  | unboundName
  deriving DecidableEq, Repr

/-- The machine's state. `cfg`, the parameters of R8, is fixed: no step writes it. `wait`, `drawn`, `inbox` and `names`
are the model's own (log entries 3 to 6); every other field is a cell of R20. -/
structure State where
  /-- The part's parameters (R8). -/
  cfg : Params
  /-- CTRL.IRQ_EN (R22). -/
  irqEn : Bool
  /-- STATUS.DONE (R26). -/
  done : Bool
  /-- STATUS.ERR (R27). -/
  err : Bool
  /-- STATUS.OVR (R28). -/
  ovr : Bool
  /-- STATUS.ERRCODE (R27, R103). -/
  errCode : BitVec 4
  /-- SEED_LEN.LEN (R29). -/
  seedLen : BitVec 16
  /-- KEY_LEN.LEN (R30). -/
  keyLen : BitVec 16
  /-- MSG_LEN.LEN (R31). -/
  msgLen : BitVec 16
  /-- OUT_LEN.LEN (R32). -/
  outLen : BitVec 16
  /-- SEED_BUF, KEY_BUF, MSG_BUF and OUT_BUF (R33), at their byte offsets in the window. -/
  mem : Memory
  /-- ENG (R34). -/
  eng : Engine
  /-- While BUSY: how many further steps come before the completion (P_LATENCY, R127). -/
  wait : Nat
  /-- How many free values have been drawn. -/
  drawn : Nat
  /-- What the host does next, first line first. -/
  inbox : List HostOp
  /-- The values the host's script has bound. -/
  names : List (Nat × Word)
  deriving DecidableEq, Repr

/-- The machine right after reset (R38, R120), a part with the default parameters (R8), and a host with nothing
to do. -/
def State.reset : State :=
  { cfg := Config.defaultParams
    irqEn := false
    done := false
    err := false
    ovr := false
    errCode := 0
    seedLen := 0
    keyLen := 0
    msgLen := 0
    outLen := 0
    mem := []
    eng := .idle
    wait := 0
    drawn := 0
    inbox := []
    names := [] }

end Sys2Proof.Machine
end

