-- ==== Sys2Proof/Machine/Ops.lean ====
section
/-! DEFINITION. The named operations over memory and registers, the end of a command (success, or `raise Error`, the
block's one form of exception), and its acknowledgement. -/

namespace Sys2Proof.Machine

/-! ### Window memory, by bytes -/

/-- What an unlisted byte of the buffers reads as: its reset contents (R33, R38). -/
def Memory.unlisted : Byte := 0

/-- The canonical form: offsets strictly rising, no entry equal to what an unlisted offset reads as. -/
def Memory.wf : Memory → Bool
  | [] => true
  | (a, v) :: m => v != Memory.unlisted && m.all (fun c => decide (a < c.1)) && Memory.wf m

/-- The byte at a byte offset of the window. -/
def Memory.read : Memory → Nat → Byte
  | [], _ => Memory.unlisted
  | (b, v) :: m, a => if a = b then v else Memory.read m a

/-- `m` with no entry at `a`. -/
def Memory.erase (m : Memory) (a : Nat) : Memory := m.filter (fun c => c.1 != a)

/-- `m` with the entry `(a, v)` before the first larger offset. -/
def Memory.insert : Memory → Nat → Byte → Memory
  | [], a, v => [(a, v)]
  | (b, w) :: m, a, v => if a < b then (a, v) :: (b, w) :: m else (b, w) :: Memory.insert m a v

/-- Storing one byte. Storing what an unlisted offset reads as removes the entry. -/
def Memory.write (m : Memory) (a : Nat) (v : Byte) : Memory :=
  if v = Memory.unlisted then m.erase a else (m.erase a).insert a v

/-- Storing bytes at rising offsets. -/
def Memory.writeBytes (m : Memory) (a : Nat) : List Byte → Memory
  | [] => m
  | b :: bs => Memory.writeBytes (m.write a b) (a + 1) bs

/-- MemWord: the 32-bit word at a byte offset, byte 0 in bits 7:0 (R43). -/
def Memory.word (m : Memory) (a : Nat) : Word :=
  wordOfBytes (m.read a) (m.read (a + 1)) (m.read (a + 2)) (m.read (a + 3))

/-- Storing a whole 32-bit word (R43, R47). -/
def Memory.writeWord (m : Memory) (a : Nat) (v : Word) : Memory := m.writeBytes a (bytesOfWord v)

/-! ### Buffers, by bits -/

/-- The byte offset of a buffer's word 0 (R40). -/
def Buf.base : Buf → Nat
  | .seed => 0x100
  | .key => 0x200
  | .msg => 0x300
  | .out => 0x400

/-- SIZE_X: how many bits a buffer holds (R45). -/
def Buf.size (p : Params) : Buf → Nat
  | .seed => p.maxSeed
  | .key => p.maxKey
  | .msg => p.maxMsg
  | .out => p.maxMsg

/-- bit_X(i): bit `i mod 32` of word `i div 32` (R44), which is bit `i mod 8` of byte `i div 8` (R43). -/
def Memory.bit (m : Memory) (b : Buf) (i : Nat) : Bool := (m.read (b.base + i / 8)).getLsbD (i % 8)

/-- The number whose binary digits, lowest first, are the given bits. -/
def natOfBits : List Bool → Nat
  | [] => 0
  | b :: bs => b.toNat + 2 * natOfBits bs

/-- The first `k` bytes of a bit vector, eight bits a byte with index 0 lowest (R44), missing bits 0. -/
def packBytes : Nat → List Bool → List Byte
  | 0, _ => []
  | k + 1, v => BitVec.ofNat 8 (natOfBits (v.take 8)) :: packBytes k (v.drop 8)

/-- WriteVec (R57): the vector, and 0 in every cell of the buffer at or beyond its length. -/
def Memory.writeVec (p : Params) (m : Memory) (b : Buf) (v : List Bool) : Memory :=
  m.writeBytes b.base (packBytes (b.size p / 8) v)

/-- ClearVec (R57). -/
def Memory.clearVec (p : Params) (m : Memory) (b : Buf) : Memory := m.writeVec p b []

/-! ### Registers -/

/-- STATUS.BUSY, a view of ENG (R25). -/
def State.busy (s : State) : Bool :=
  match s.eng with
  | .idle => false
  | .busy _ => true

/-- The length register of a buffer (R29 to R32). -/
def State.len (s : State) : Buf → BitVec 16
  | .seed => s.seedLen
  | .key => s.keyLen
  | .msg => s.msgLen
  | .out => s.outLen

/-- Writing a length register. -/
def State.setLen (s : State) (b : Buf) (v : BitVec 16) : State :=
  match b with
  | .seed => { s with seedLen := v }
  | .key => { s with keyLen := v }
  | .msg => { s with msgLen := v }
  | .out => { s with outLen := v }

/-- Writing the buffers. -/
def State.setMem (s : State) (m : Memory) : State := { s with mem := m }

/-- Writing CTRL.IRQ_EN (R22). -/
def State.setIrqEn (s : State) (b : Bool) : State := { s with irqEn := b }

/-- Setting STATUS.OVR: a write was dropped (R28, R48). -/
def State.setOvr (s : State) : State := { s with ovr := true }

/-- One free value has been used. -/
def State.draw (s : State) : State := { s with drawn := s.drawn + 1 }

/-- One step of the latency passes (R127). -/
def State.tick (s : State) : State := { s with wait := s.wait - 1 }

/-- What the host does next. -/
def State.setInbox (s : State) (l : List HostOp) : State := { s with inbox := l }

/-- A script's RD binds its result to a name (R66). -/
def State.bind (s : State) (n : Nat) (v : Word) : State :=
  { s with names := (n, v) :: s.names.filter (fun c => c.1 != n) }

/-- WriteVec into a buffer, and the buffer's length register: how GEN, ENC and DEC write their result (R67, R91,
R95). -/
def State.writeResult (s : State) (b : Buf) (v : List Bool) (n : Nat) : State :=
  (s.setMem (s.mem.writeVec s.cfg b v)).setLen b (BitVec.ofNat 16 n)

/-- ClearVec of a buffer and 0 in its length register (R99, R109). -/
def State.clearDest (s : State) (b : Buf) : State := s.writeResult b [] 0

/-! ### The end of a command, and the start -/

/-- STATUS.ERRCODE of an error (R103). -/
def ErrorCode.code : ErrorCode → BitVec 4
  | .keyTooLong => 1
  | .lengthMismatch => 2
  | .illegalCmd => 3
  | .lengthRange => 4

/-- `succeed()` (R37, R67): ENG idle, DONE 1, ERR 0, ERRCODE 0. OVR stays (R99). -/
def State.succeed (s : State) : State :=
  { s with eng := .idle, wait := 0, done := true, err := false, errCode := 0 }

/-- `raise Error(code)` (R101): the one way an error is taken. BUSY 0, DONE 1, ERR 1, ERRCODE the code. Nothing is
saved and no control moves (R110). -/
def State.raiseError (s : State) (e : ErrorCode) : State :=
  { s with eng := .idle, wait := 0, done := true, err := true, errCode := e.code }

/-- `fail(code)` of a command with a destination: the destination is cleared, then the error is raised (R67, R91,
R95, R109). -/
def State.failCommand (s : State) (dest : Buf) (e : ErrorCode) : State := (s.clearDest dest).raiseError e

/-- The report of an illegal command word (R105): ILLEGAL_CMD at once, OVR cleared, no destination. -/
def State.reportIllegal (s : State) : State := { s.raiseError .illegalCmd with ovr := false }

/-- The host's acknowledgement, a write to STATUS (R47, R110): bit 1 clears DONE, bit 2 clears ERR and ERRCODE, bit 3
clears OVR. It is the nearest the block has to a return from an exception. -/
def State.acknowledge (s : State) (v : Word) : State :=
  { s with
    done := s.done && !v.getLsbD 1
    err := s.err && !v.getLsbD 2
    errCode := if v.getLsbD 2 then 0 else s.errCode
    ovr := s.ovr && !v.getLsbD 3 }

/-- The command fields ENG latches for a decoded command (R34, R61). -/
def commandOf (i : Instr) : Command :=
  { op :=
      match i with
      | .genSha256 | .genKeccak | .genSha256X | .genKeccakX => .gen
      | .enc | .encStrict => .enc
      | .dec | .decStrict => .dec
      | .clear => .clear
    hsel := hselOf i
    xtnd := xtndOf i
    strict := strictOf i }

/-- The command ENG carries out from its latched fields (R34): HSEL and XTND count only for GEN, STRICT only for ENC
and DEC. -/
def instrOf (c : Command) : Instr :=
  match c.op with
  | .gen => genOf c.hsel c.xtnd
  | .enc => encOf c.strict
  | .dec => decOf c.strict
  | .clear => .clear

/-- Accept of a legal command (R61): ENG takes its fields and DONE, ERR, ERRCODE and OVR are cleared. `latency` is how
many further steps come before its completion (R127). -/
def State.accept (s : State) (i : Instr) (latency : Nat) : State :=
  { s with
    eng := .busy (commandOf i)
    wait := latency
    done := false
    err := false
    errCode := 0
    ovr := false }

/-- The reset event (R120, R121): every cell of the block at its reset value. The part's parameters and the host's own
script stay. -/
def State.resetBlock (s : State) : State :=
  { State.reset with cfg := s.cfg, drawn := s.drawn, inbox := s.inbox, names := s.names }

/-- The command whose completion is the next step, if there is one: ENG is BUSY and its latency has passed (R37). -/
def State.due (s : State) : Option Instr :=
  match s.eng with
  | .idle => none
  | .busy c => if s.wait = 0 then some (instrOf c) else none

end Sys2Proof.Machine
end

