-- ==== Sys2Proof/Machine/Operands.lean ====
section
/-! DEFINITION. Operand forms: the implicit vectors of a command (20_memory.md R56), and the locations a host
transaction names (R39 to R45). -/

namespace Sys2Proof.Machine

/-- The first `n` bits of a buffer, in index order (R56). -/
def Memory.vec (m : Memory) (b : Buf) (n : Nat) : List Bool := (List.range n).map (m.bit b)

/-- The operand vector of a buffer: its length register's number of bits (R56). -/
def State.vec (s : State) (b : Buf) : List Bool := s.mem.vec b (s.len b).toNat

/-- min(KEY_LEN, MSG_LEN), the length ENC and DEC work on (R91, R95). -/
def State.cipherLen (s : State) : Nat := min s.keyLen.toNat s.msgLen.toNat

/-- A length register of ENC or DEC names more bits than its buffer holds (R106). -/
def State.cipherRange (s : State) : Bool :=
  decide (s.keyLen.toNat > s.cfg.maxKey) || decide (s.msgLen.toNat > s.cfg.maxMsg)

/-- What an aligned offset of the window names (R40). -/
inductive Loc where
  | id
  | ctrl
  | cmd
  | status
  | len (b : Buf)
  | buf (b : Buf) (w : Nat)
  | reserved
  deriving DecidableEq, Repr

/-- Word `w` of a buffer, if the part implements it; else it is as a reserved location (R45). -/
def bufLoc (p : Params) (b : Buf) (w : Nat) : Loc :=
  if 32 * w < b.size p then .buf b w else .reserved

/-- The registers, below offset 0x100 (R40); the rest there is reserved (R41). -/
def regLoc (off : Nat) : Loc :=
  match off with
  | 0x000 => .id
  | 0x004 => .ctrl
  | 0x008 => .cmd
  | 0x00C => .status
  | 0x010 => .len .seed
  | 0x014 => .len .key
  | 0x018 => .len .msg
  | 0x01C => .len .out
  | _ => .reserved

/-- The register map (R40, R41, R45): registers below 0x100, then the four buffers' regions of 0x100 bytes each, then
reserved locations. -/
def locOf (p : Params) (off : Nat) : Loc :=
  if off < 0x100 then regLoc off
  else if off < 0x200 then bufLoc p .seed ((off - 0x100) / 4)
  else if off < 0x300 then bufLoc p .key ((off - 0x200) / 4)
  else if off < 0x400 then bufLoc p .msg ((off - 0x300) / 4)
  else if off < 0x500 then bufLoc p .out ((off - 0x400) / 4)
  else .reserved

/-- The size of the register window in bytes (R39). -/
def windowSize : Nat := 4096

/-- The window offset of an address, if it lies in the window: P_BASE + off is offset `off` (R39). -/
def windowOffset : HostAddr → Option Nat
  | .offset off => if off < windowSize then some off else none
  | .host a => if Config.pBase ≤ a ∧ a < Config.pBase + windowSize then some (a - Config.pBase) else none

/-- The offset a host transaction reaches: it must lie in the window (R39) and be an aligned 32-bit access (R42). -/
def busTarget (w : Width) (addr : HostAddr) : Except Fault Nat :=
  match windowOffset addr with
  | none => .error .outsideWindow
  | some off => if w = .word ∧ off % 4 = 0 then .ok off else .error .busError

/-- The value of a script's WR line (R66). -/
def hostValue (s : State) : HostVal → Option Word
  | .lit v => some v
  | .name n => s.names.lookup n

end Sys2Proof.Machine
end

