-- ==== Sys2Proof/Machine/Control.lean ====
section
/-! DEFINITION. The CLEAR family: zeroising the data state (43_control.md R99). -/

namespace Sys2Proof.Machine

/-- CLEAR (R99): every buffer and every length register 0, then success. It has no error. -/
def execClear (s : State) : Host.Outcome State Fault Refusal :=
  .next ((((s.clearDest .seed).clearDest .key).clearDest .msg).clearDest .out).succeed

end Sys2Proof.Machine
end

