-- ==== Sys2Proof/Machine/Enc.lean ====
section
/-! DEFINITION. The ENC family: the DiffusionCipher (41_diffusion_encode.md R91 to R94), and what ENC and DEC share. -/

namespace Sys2Proof.Machine

/-- The body of both chain loops (R91 step 2, R95 step 2): x[i] takes x[i] xor x[i-1], where x[i-1] is read from the
vector as it is then (R14). -/
def chainStep (x : List Bool) (i : Nat) : List Bool := x.set i (x.getD i false ^^ x.getD (i - 1) false)

/-- The indices 1 .. m-1 of a vector of length m, in rising order (R14). -/
def chainIndices (m : Nat) : List Nat := List.range' 1 (m - 1)

/-- The forward chain, for i from 1 to m-1 (R91 step 2): x[i-1] has already been chained. -/
def forwardChain (x : List Bool) : List Bool := (chainIndices x.length).foldl chainStep x

/-- Positionwise exclusive-or up to the shorter length (R91 step 3, R95 step 1). -/
def xorBits (x k : List Bool) : List Bool := List.zipWith (fun a b => a ^^ b) x k

/-- ENC on vectors (R91): chain the first m bits of the message, then mix with the key. -/
def encVec (key msg : List Bool) : List Bool :=
  xorBits (forwardChain (msg.take (min key.length msg.length))) key

/-- The shape ENC and DEC share (R91, R95): the range check, the strict check, and the result of length m. `f` gets
the key vector and the message vector. -/
def cipherResult (f : List Bool → List Bool → List Bool) (strict : Bool) (s : State) : State :=
  if s.cipherRange then s.failCommand .out .lengthRange
  else if strict = true ∧ s.keyLen ≠ s.msgLen then s.failCommand .out .lengthMismatch
  else (s.writeResult .out (f (s.vec .key) (s.vec .msg)) s.cipherLen).succeed

/-- ENC (R91, STRICT = 0). -/
def execEnc (s : State) : Host.Outcome State Fault Refusal := .next (cipherResult encVec false s)

/-- ENC.STRICT (R91, STRICT = 1). -/
def execEncStrict (s : State) : Host.Outcome State Fault Refusal := .next (cipherResult encVec true s)

end Sys2Proof.Machine
end

