-- ==== Sys2Proof/Machine/Dec.lean ====
section
/-! DEFINITION. The DEC family: the InverseDiffusion (42_inverse_diffusion.md R95 to R98). -/

namespace Sys2Proof.Machine

/-- The backward chain, for i from m-1 down to 1 (R95 step 2): x[i-1] is not yet updated when read. No bit order is
reversed (90_conflicts.md C3). -/
def backwardChain (x : List Bool) : List Bool := (chainIndices x.length).reverse.foldl chainStep x

/-- DEC on vectors (R95): remove the keystream, then undo the chain, last index first. -/
def decVec (key msg : List Bool) : List Bool := backwardChain (xorBits msg key)

/-- DEC (R95, STRICT = 0). -/
def execDec (s : State) : Host.Outcome State Fault Refusal := .next (cipherResult decVec false s)

/-- DEC.STRICT (R95, STRICT = 1). -/
def execDecStrict (s : State) : Host.Outcome State Fault Refusal := .next (cipherResult decVec true s)

end Sys2Proof.Machine
end

