-- ==== Sys2Proof/Machine/Sha256.lean ====
section
/-! DEFINITION. The SHA-256 engine (40_hash_expander.md R76 to R81), on byte strings. -/

namespace Sys2Proof.Machine

/-- The `k` big-endian bytes of a natural: be32 and be64 (R12, R76, R81). -/
def beBytes : Nat → Nat → List Byte
  | 0, _ => []
  | k + 1, n => beBytes k (n / 256) ++ [BitVec.ofNat 8 n]

/-- The natural of big-endian bytes (R12). -/
def ofBeBytes (b : List Byte) : Nat := b.foldl (fun n x => 256 * n + x.toNat) 0

/-- Cutting a byte string into `k` blocks of `size` bytes (R76, R89). -/
def blocksOf (size : Nat) : Nat → List Byte → List (List Byte)
  | 0, _ => []
  | k + 1, b => b.take size :: blocksOf size k (b.drop size)

/-- How many zero bytes SHA-256 padding has for a message of `l` bytes (R76). -/
def shaPadZeros (l : Nat) : Nat := (55 + 64 - l % 64) % 64

/-- SHA-256 padding (R76). -/
def shaPad (b : List Byte) : List Byte :=
  b ++ [0x80] ++ List.replicate (shaPadZeros b.length) 0x00 ++ beBytes 8 (8 * b.length)

/-- Ch (R77). -/
def shaCh (e f g : Word) : Word := (e &&& f) ^^^ (~~~e &&& g)

/-- Maj (R77). -/
def shaMaj (a b c : Word) : Word := (a &&& b) ^^^ (a &&& c) ^^^ (b &&& c)

/-- S0 (R77). -/
def shaBigS0 (a : Word) : Word := a.rotateRight 2 ^^^ a.rotateRight 13 ^^^ a.rotateRight 22

/-- S1 (R77). -/
def shaBigS1 (e : Word) : Word := e.rotateRight 6 ^^^ e.rotateRight 11 ^^^ e.rotateRight 25

/-- s0 (R77). -/
def shaSmallS0 (x : Word) : Word := x.rotateRight 7 ^^^ x.rotateRight 18 ^^^ (x >>> 3)

/-- s1 (R77). -/
def shaSmallS1 (x : Word) : Word := x.rotateRight 17 ^^^ x.rotateRight 19 ^^^ (x >>> 10)

/-- The round constants K[0..63], row by row (R78). -/
def shaK : List Word :=
  [0x428a2f98, 0x71374491, 0xb5c0fbcf, 0xe9b5dba5, 0x3956c25b, 0x59f111f1, 0x923f82a4, 0xab1c5ed5]
  ++ [0xd807aa98, 0x12835b01, 0x243185be, 0x550c7dc3, 0x72be5d74, 0x80deb1fe, 0x9bdc06a7, 0xc19bf174]
  ++ [0xe49b69c1, 0xefbe4786, 0x0fc19dc6, 0x240ca1cc, 0x2de92c6f, 0x4a7484aa, 0x5cb0a9dc, 0x76f988da]
  ++ [0x983e5152, 0xa831c66d, 0xb00327c8, 0xbf597fc7, 0xc6e00bf3, 0xd5a79147, 0x06ca6351, 0x14292967]
  ++ [0x27b70a85, 0x2e1b2138, 0x4d2c6dfc, 0x53380d13, 0x650a7354, 0x766a0abb, 0x81c2c92e, 0x92722c85]
  ++ [0xa2bfe8a1, 0xa81a664b, 0xc24b8b70, 0xc76c51a3, 0xd192e819, 0xd6990624, 0xf40e3585, 0x106aa070]
  ++ [0x19a4c116, 0x1e376c08, 0x2748774c, 0x34b0bcb5, 0x391c0cb3, 0x4ed8aa4a, 0x5b9cca4f, 0x682e6ff3]
  ++ [0x748f82ee, 0x78a5636f, 0x84c87814, 0x8cc70208, 0x90befffa, 0xa4506ceb, 0xbef9a3f7, 0xc67178f2]

/-- The eight working words, of the hash value H[0..7] and of (a, .., h) (R79, R80). -/
structure ShaWords where
  a : Word
  b : Word
  c : Word
  d : Word
  e : Word
  f : Word
  g : Word
  h : Word
  deriving DecidableEq, Repr

/-- The initial hash value (R79). -/
def shaInit : ShaWords :=
  { a := 0x6a09e667, b := 0xbb67ae85, c := 0x3c6ef372, d := 0xa54ff53a
    e := 0x510e527f, f := 0x9b05688c, g := 0x1f83d9ab, h := 0x5be0cd19 }

/-- The sixteen words a block begins with, W[0..15] (R80). -/
def shaBlockWords (m : List Byte) : List Word :=
  (blocksOf 4 16 m).map (fun w => BitVec.ofNat 32 (ofBeBytes w))

/-- The next word of the message schedule, from the words before it, latest first (R80). -/
def shaNextWord (w : List Word) : Word :=
  shaSmallS1 (w.getD 1 0) + w.getD 6 0 + shaSmallS0 (w.getD 14 0) + w.getD 15 0

/-- The message schedule extended by `k` words, latest first. -/
def shaExtend : Nat → List Word → List Word
  | 0, w => w
  | k + 1, w => shaExtend k (shaNextWord w :: w)

/-- The message schedule W[0..63] of a block (R80). -/
def shaSchedule (m : List Byte) : List Word := (shaExtend 48 (shaBlockWords m).reverse).reverse

/-- One round (R80); `kw` is K[t] and W[t]. -/
def shaRound (s : ShaWords) (kw : Word × Word) : ShaWords :=
  let t1 := s.h + shaBigS1 s.e + shaCh s.e s.f s.g + kw.1 + kw.2
  let t2 := shaBigS0 s.a + shaMaj s.a s.b s.c
  { a := t1 + t2, b := s.a, c := s.b, d := s.c, e := s.d + t1, f := s.e, g := s.f, h := s.g }

/-- Compression of one block into the hash value (R80). -/
def shaCompress (s : ShaWords) (m : List Byte) : ShaWords :=
  let r := (shaK.zip (shaSchedule m)).foldl shaRound s
  { a := s.a + r.a, b := s.b + r.b, c := s.c + r.c, d := s.d + r.d
    e := s.e + r.e, f := s.f + r.f, g := s.g + r.g, h := s.h + r.h }

/-- The digest bytes of a hash value, each word most significant byte first (R81). -/
def shaDigest (s : ShaWords) : List Byte :=
  [s.a, s.b, s.c, s.d, s.e, s.f, s.g, s.h].flatMap (fun w => beBytes 4 w.toNat)

/-- SHA256 (R76 to R81). -/
def sha256 (b : List Byte) : List Byte :=
  let p := shaPad b
  shaDigest ((blocksOf 64 (p.length / 64) p).foldl shaCompress shaInit)

end Sys2Proof.Machine
end

