-- ==== Sys2Proof/Machine/Keccak256.lean ====
section
/-! DEFINITION. The Keccak-256 engine (40_hash_expander.md R82 to R89), on byte strings: the original padding byte
0x01, not SHA3-256. -/

namespace Sys2Proof.Machine

/-- The rate in bytes (R82). -/
def keccakRate : Nat := 136

/-- How many zero bytes follow the padding byte for a message of `l` bytes (R82). -/
def keccakPadZeros (l : Nat) : Nat := 135 - l % 136

/-- Setting the top bit of the last byte (R82). -/
def orLastByte : List Byte → List Byte
  | [] => []
  | [b] => [b ||| 0x80]
  | b :: bs => b :: orLastByte bs

/-- Keccak-256 padding (R82). -/
def keccakPad (b : List Byte) : List Byte :=
  orLastByte (b ++ [0x01] ++ List.replicate (keccakPadZeros b.length) 0x00)

/-- The state A[x][y] (R83): 25 lanes, lane (x, y) at index x + 5·y. -/
abbrev KeccakState := List Lane

/-- The lane A[x][y]. -/
def keccakLane (s : KeccakState) (x y : Nat) : Lane := s.getD (x + 5 * y) 0

/-- The state whose lane (x, y) is `f x y`. -/
def keccakBuild (f : Nat → Nat → Lane) : KeccakState := (List.range 25).map (fun i => f (i % 5) (i / 5))

/-- The all-zero state (R83). -/
def keccakZero : KeccakState := List.replicate 25 0

/-- θ's column parities C[0..4] (R84). -/
def keccakParities (s : KeccakState) : List Lane :=
  (List.range 5).map (fun x =>
    keccakLane s x 0 ^^^ keccakLane s x 1 ^^^ keccakLane s x 2 ^^^ keccakLane s x 3 ^^^ keccakLane s x 4)

/-- θ's D[x] from the parities (R84). -/
def keccakD (c : List Lane) (x : Nat) : Lane := c.getD ((x + 4) % 5) 0 ^^^ (c.getD ((x + 1) % 5) 0).rotateLeft 1

/-- Step θ (R84). -/
def keccakTheta (s : KeccakState) : KeccakState :=
  let c := keccakParities s
  let d := (List.range 5).map (keccakD c)
  keccakBuild (fun x y => keccakLane s x y ^^^ d.getD x 0)

/-- The rotation offsets, one row per y and one column per x (R85). -/
def keccakOffsets : List Nat :=
  [0, 1, 62, 28, 27]
  ++ [36, 44, 6, 55, 20]
  ++ [3, 10, 43, 25, 39]
  ++ [41, 45, 15, 21, 8]
  ++ [18, 2, 61, 56, 14]

/-- rot[x][y] (R85). -/
def keccakRot (x y : Nat) : Nat := keccakOffsets.getD (x + 5 * y) 0

/-- Steps ρ and π together (R86). The rule says where lane (x, y) goes: B[y][(2x + 3y) mod 5]. Lane (u, v) of the
result is therefore the rotated lane ((u + 3v) mod 5, u). -/
def keccakRhoPi (s : KeccakState) : KeccakState :=
  keccakBuild (fun u v => (keccakLane s ((u + 3 * v) % 5) u).rotateLeft (keccakRot ((u + 3 * v) % 5) u))

/-- Step χ (R87). -/
def keccakChi (b : KeccakState) : KeccakState :=
  keccakBuild (fun x y =>
    keccakLane b x y ^^^ (~~~keccakLane b ((x + 1) % 5) y &&& keccakLane b ((x + 2) % 5) y))

/-- The round constants RC[0..23] (R88). -/
def keccakRC : List Lane :=
  [0x0000000000000001, 0x0000000000008082, 0x800000000000808a, 0x8000000080008000]
  ++ [0x000000000000808b, 0x0000000080000001, 0x8000000080008081, 0x8000000000008009]
  ++ [0x000000000000008a, 0x0000000000000088, 0x0000000080008009, 0x000000008000000a]
  ++ [0x000000008000808b, 0x800000000000008b, 0x8000000000008089, 0x8000000000008003]
  ++ [0x8000000000008002, 0x8000000000000080, 0x000000000000800a, 0x800000008000000a]
  ++ [0x8000000080008081, 0x8000000000008080, 0x0000000080000001, 0x8000000080008008]

/-- Step ι (R88). -/
def keccakIota (rc : Lane) (s : KeccakState) : KeccakState :=
  keccakBuild (fun x y => if x = 0 ∧ y = 0 then keccakLane s 0 0 ^^^ rc else keccakLane s x y)

/-- One round (R88). -/
def keccakRound (s : KeccakState) (rc : Lane) : KeccakState :=
  keccakIota rc (keccakChi (keccakRhoPi (keccakTheta s)))

/-- Keccak-f[1600]: 24 rounds in order (R88). -/
def keccakF (s : KeccakState) : KeccakState := keccakRC.foldl keccakRound s

/-- The natural of little-endian bytes: le64 (R89). -/
def ofLeBytes : List Byte → Nat
  | [] => 0
  | b :: bs => b.toNat + 256 * ofLeBytes bs

/-- The `k` little-endian bytes of a natural: le64bytes (R89). -/
def leBytes : Nat → Nat → List Byte
  | 0, _ => []
  | k + 1, n => BitVec.ofNat 8 n :: leBytes k (n / 256)

/-- The 17 lanes of a 136-byte block (R89). -/
def keccakBlockLanes (q : List Byte) : List Lane :=
  (blocksOf 8 17 q).map (fun w => BitVec.ofNat 64 (ofLeBytes w))

/-- Absorbing one block (R89). -/
def keccakAbsorb (s : KeccakState) (q : List Byte) : KeccakState :=
  let w := keccakBlockLanes q
  keccakF (keccakBuild (fun x y => keccakLane s x y ^^^ w.getD (x + 5 * y) 0))

/-- KECCAK256 (R82 to R89). -/
def keccak256 (b : List Byte) : List Byte :=
  let p := keccakPad b
  let s := (blocksOf keccakRate (p.length / keccakRate) p).foldl keccakAbsorb keccakZero
  (List.range 4).flatMap (fun x => leBytes 8 (keccakLane s x 0).toNat)

end Sys2Proof.Machine
end

