-- ==== Sys2Proof/Machine/Gen.lean ====
section
/-! DEFINITION. The GEN family: the HashExpander (40_hash_expander.md R67 to R75, R90). -/

namespace Sys2Proof.Machine

/-- Render (R68): each bit as its ASCII digit, 0x30 or 0x31, in index order. -/
def render (seed : List Bool) : List Byte := seed.map (fun b => if b then 0x31 else 0x30)

/-- Hash dispatch H (R69). -/
def hashBytes : Hash → List Byte → List Byte
  | .sha256, b => sha256 b
  | .keccak256, b => keccak256 b

/-- The hex digits of a digest, each byte's high nibble first (R70). -/
def hexDigits (d : List Byte) : List Nat := d.flatMap (fun b => [b.toNat / 16, b.toNat % 16])

/-- A hex digit as four bits, most significant first (R70). -/
def digitBits (h : Nat) : List Bool := [h.testBit 3, h.testBit 2, h.testBit 1, h.testBit 0]

/-- ExpandDigest (R70): each hex digit of the digest to its four bits. -/
def expandDigest (d : List Byte) : List Bool := (hexDigits d).flatMap digitBits

/-- M_j (R71): block 0 hashes S, block j ≥ 1 hashes S followed by a four-byte big-endian counter. -/
def blockInput (s : List Byte) (j : Nat) : List Byte := if j = 0 then s else s ++ beBytes 4 j

/-- ExpandN (R71): the first `l` bits of the digest blocks' expansions. -/
def expandN (h : Hash) (s : List Byte) (l : Nat) : List Bool :=
  ((List.range ((l + 255) / Config.digestBits)).flatMap
    (fun j => expandDigest (hashBytes h (blockInput s j)))).take l

/-- The pseudocode of GEN (R67), with the order of its checks (R102). -/
def genResult (h : Hash) (xtnd : Bool) (s : State) : State :=
  if s.seedLen.toNat > s.cfg.maxSeed then s.failCommand .key .lengthRange
  else if xtnd = false ∧ 4 * s.seedLen.toNat > Config.digestBits then s.failCommand .key .keyTooLong
  else
    (s.writeResult .key (expandN h (render (s.vec .seed)) (4 * s.seedLen.toNat))
      (4 * s.seedLen.toNat)).succeed

/-- GEN.SHA256 (R67, HSEL = 0, XTND = 0). -/
def execGenSha256 (s : State) : Host.Outcome State Fault Refusal := .next (genResult .sha256 false s)

/-- GEN.KECCAK (R67, HSEL = 1, XTND = 0). -/
def execGenKeccak (s : State) : Host.Outcome State Fault Refusal := .next (genResult .keccak256 false s)

/-- GEN.SHA256.X (R67, HSEL = 0, XTND = 1). -/
def execGenSha256X (s : State) : Host.Outcome State Fault Refusal := .next (genResult .sha256 true s)

/-- GEN.KECCAK.X (R67, HSEL = 1, XTND = 1). -/
def execGenKeccakX (s : State) : Host.Outcome State Fault Refusal := .next (genResult .keccak256 true s)

end Sys2Proof.Machine
end

