-- ==== Sys2Proof/Machine/Dispatch.lean ====
section
/-! DEFINITION. The meaning of every command: what the engine's completion does (10_state.md R37). -/

namespace Sys2Proof.Machine

def exec (i : Instr) (s : State) : Host.Outcome State Fault Refusal :=
  match i with
  | .genSha256 => Sys2Proof.Machine.execGenSha256 s
  | .genKeccak => Sys2Proof.Machine.execGenKeccak s
  | .genSha256X => Sys2Proof.Machine.execGenSha256X s
  | .genKeccakX => Sys2Proof.Machine.execGenKeccakX s
  | .enc => Sys2Proof.Machine.execEnc s
  | .encStrict => Sys2Proof.Machine.execEncStrict s
  | .dec => Sys2Proof.Machine.execDec s
  | .decStrict => Sys2Proof.Machine.execDecStrict s
  | .clear => Sys2Proof.Machine.execClear s

end Sys2Proof.Machine
end

