-- ==== Sys2Proof/Machine/Flags.lean ====
section
/-! DEFINITION. The register views a host reads: STATUS, CTRL, ID and the length registers as 32-bit words, and the irq
line. -/

namespace Sys2Proof.Machine

/-- STATUS as read: ERRCODE in 7:4, then OVR, ERR, DONE, BUSY (R24, R46). -/
def State.statusWord (s : State) : Word :=
  (s.errCode ++ BitVec.ofBool s.ovr ++ BitVec.ofBool s.err ++ BitVec.ofBool s.done
    ++ BitVec.ofBool s.busy).setWidth 32

/-- CTRL as read: IRQ_EN in bit 0 (R22, R46). -/
def State.ctrlWord (s : State) : Word := (BitVec.ofBool s.irqEn).setWidth 32

/-- A length register as read: LEN in 15:0 (R29 to R32, R46). -/
def State.lenWord (s : State) (b : Buf) : Word := (s.len b).setWidth 32

/-- ID_VALUE: MAGIC_H, MAGIC_X, MAXSEED_W, five reserved bits, HAS_EXT, HAS_KEC, HAS_SHA (R21). -/
def idValue (p : Params) : Word :=
  0x48#8 ++ 0x58#8 ++ BitVec.ofNat 8 p.maxSeedWords ++ 0#5 ++ BitVec.ofBool p.extend
    ++ BitVec.ofBool (p.hashes.has .keccak256) ++ BitVec.ofBool (p.hashes.has .sha256)

/-- ID, hardwired (R21). -/
def State.idWord (s : State) : Word := idValue s.cfg

/-- The irq output: a level, CTRL.IRQ_EN & STATUS.DONE (R36, R111). -/
def State.irq (s : State) : Bool := s.irqEn && s.done

end Sys2Proof.Machine
end

