-- ==== Sys2Proof/Machine/Bus.lean ====
section
/-! DEFINITION. Host transactions inside the window: MemRead and MemWrite at an aligned offset (20_memory.md R46 to
R49, 30_encoding.md R61). -/

namespace Sys2Proof.Machine

/-- A read of a location whose value is unspecified while BUSY (R49): then a free value, else the word given. -/
def readUnlessBusy (s : State) (v : Word) : Word × State :=
  if s.busy then (Config.busyRead s.drawn, s.draw) else (v, s)

/-- MemRead(off, 4) (R46, R49): the word read, and the state after. -/
def busRead (off : Nat) (s : State) : Word × State :=
  match locOf s.cfg off with
  | .id => (s.idWord, s)
  | .ctrl => (s.ctrlWord, s)
  | .cmd => (0, s)
  | .status => (s.statusWord, s)
  | .len b => readUnlessBusy s (s.lenWord b)
  | .buf b w => readUnlessBusy s (s.mem.word (b.base + 4 * w))
  | .reserved => (0, s)

/-- A write of a word to CMD while BUSY = 0 (R61): accept of a legal command, whose latency is a free value, or the
report of an illegal one. -/
def writeCmd (v : Word) (s : State) : State :=
  match acceptWord s.cfg v with
  | .ok i => (s.accept i (Config.latency s.drawn)).draw
  | .error _ => s.reportIllegal

/-- A write to a location that takes none while BUSY: dropped, with OVR (R48), else the state given. -/
def writeUnlessBusy (s t : State) : State := if s.busy then s.setOvr else t

/-- MemWrite(off, 4, v) (R47, R48). -/
def busWrite (off : Nat) (v : Word) (s : State) : State :=
  match locOf s.cfg off with
  | .id => s
  | .ctrl => s.setIrqEn (v.getLsbD 0)
  | .cmd => writeUnlessBusy s (writeCmd v s)
  | .status => s.acknowledge v
  | .len .out => s
  | .len b => writeUnlessBusy s (s.setLen b (v.setWidth 16))
  | .buf .out _ => s
  | .buf b w => writeUnlessBusy s (s.setMem (s.mem.writeWord (b.base + 4 * w) v))
  | .reserved => s

end Sys2Proof.Machine
end

