-- ==== Sys2Proof/Machine/HostPort.lean ====
section
/-! DEFINITION. The host agent (00_scope.md R17): one line of its inbox, one step. -/

namespace Sys2Proof.Machine

/-- A write line (R66 WR, R42, R47, R48). -/
def hostWrite (w : Width) (addr : HostAddr) (v : HostVal) (s : State) : Host.Outcome State Fault Refusal :=
  match busTarget w addr with
  | .error f => .fault f
  | .ok off =>
    match hostValue s v with
    | none => .refused .unboundName
    | some x => .next (busWrite off x s)

/-- A read line (R66 RD, R42, R46, R49): the word read is bound to the name. -/
def hostRead (w : Width) (addr : HostAddr) (n : Nat) (s : State) : Host.Outcome State Fault Refusal :=
  match busTarget w addr with
  | .error f => .fault f
  | .ok off => .next ((busRead off s).2.bind n (busRead off s).1)

/-- One turn of a POLL loop (R66): read STATUS and bind it; while BUSY reads 1 the line stays. -/
def hostPoll (n : Nat) (s : State) : State :=
  let t := s.bind n s.statusWord
  if s.statusWord.getLsbD 0 then t.setInbox (.poll n :: t.inbox) else t

/-- One line of the host. -/
def hostOp (op : HostOp) (s : State) : Host.Outcome State Fault Refusal :=
  match op with
  | .wr w addr v => hostWrite w addr v s
  | .rd w addr n => hostRead w addr n s
  | .poll n => .next (hostPoll n s)
  | .reset => .next s.resetBlock

/-- The host's next line carried out, one step of latency having passed; a host with nothing to do leaves the block as
it is (R17, R19). -/
def hostTurn (s : State) : Host.Outcome State Fault Refusal :=
  match s.inbox with
  | [] => .next s.tick
  | op :: rest => hostOp op (s.tick.setInbox rest)

/-- Placing a command word so that the next step runs it: a legal word is accepted with no latency left, an illegal
word is the host's next write to CMD. -/
def placeCommand (v : Word) (s : State) : State :=
  match acceptWord s.cfg v with
  | .ok i => s.accept i 0
  | .error _ => s.setInbox (.wr .word (.offset 0x008) (.lit v) :: s.inbox)

end Sys2Proof.Machine
end

