-- ==== Sys2Proof/Machine/Step.lean ====
section
/-! DEFINITION. One step of the machine: the engine's completion when it is due (10_state.md R37), else the host's turn
(00_scope.md R17, 20_memory.md R50). -/

namespace Sys2Proof.Machine

/-- One step, of the engine or of the host. -/
def step (s : State) : Host.Outcome State Fault Refusal :=
  match s.due with
  | some i => exec i s
  | none => hostTurn s

/-- `s` with a command word placed so that the next step runs it: the block fetches nothing (R55), so a legal word stands
as accepted, with no latency left, and an illegal word as the host's next write to CMD. -/
def State.withFetchWord (s : State) (nbits w : Nat) : State :=
  placeCommand (BitVec.ofNat 32 (w % 2 ^ nbits)) s

end Sys2Proof.Machine
end

