-- ==== Sys2Proof/Machine/Script.lean ====
section
/-! DEFINITION. Host script syntax (30_encoding.md R66): WR, RD and POLL are host lines; CMD, LOADVEC and CLRST are
pseudo-instructions that expand to them. -/

namespace Sys2Proof.Machine

/-- WR off, value. -/
def scriptWr (off : Nat) (v : HostVal) : HostOp := .wr .word (.offset off) v

/-- RD off -> name. -/
def scriptRd (off : Nat) (n : Nat) : HostOp := .rd .word (.offset off) n

/-- CMD mnemonic: a write of the command's word to CMD. -/
def scriptCmd (i : Instr) : HostOp := scriptWr 0x008 (.lit (encode i))

/-- CLRST: a write of 0x0000000E to STATUS. -/
def scriptClrst : HostOp := scriptWr 0x00C (.lit 0x0000000E)

/-- The offset of a buffer's length register (R40). -/
def lenOffset : Buf → Nat
  | .seed => 0x010
  | .key => 0x014
  | .msg => 0x018
  | .out => 0x01C

/-- word_w of LOADVEC: bits 32w to 32w+31 packed as R44 says, missing bits 0. -/
def scriptWord (bits : List Bool) (w : Nat) : Word := BitVec.ofNat 32 (natOfBits ((bits.drop (32 * w)).take 32))

/-- LOADVEC BUF, LENREG, bits: the length into LENREG, then the words into BUF in rising order. LENREG, the length
register of `lenReg`, is an operand of its own: it need not be that of BUF. -/
def scriptLoadVec (b lenReg : Buf) (bits : List Bool) : List HostOp :=
  scriptWr (lenOffset lenReg) (.lit (BitVec.ofNat 32 bits.length)) ::
    (List.range ((bits.length + 31) / 32)).map
      (fun w => scriptWr (b.base + 4 * w) (.lit (scriptWord bits w)))

end Sys2Proof.Machine
end

