-- ==== Sys2Proof/Safety.lean ====
section
/-! DEFINITION. What counts as a safe state and a safe run, and the terms the statements use: the invariant, the events
of a step, how a command ends, and what it leaves unchanged. -/

namespace Sys2Proof.Safety

open Sys2Proof.Machine

/-! ### The invariant -/

/-- A byte offset of the window that an implemented buffer owns (R40, R45). -/
def bufferByte (p : Params) (a : Nat) : Prop := ∃ b : Buf, b.base ≤ a ∧ a < b.base + b.size p / 8

/-- STATUS is consistent: DONE and BUSY never hold together (R26); ERR = 0 implies ERRCODE = 0, and ERR = 1 implies
ERRCODE in 1 to 4 (R27). -/
structure StatusOk (s : State) : Prop where
  doneIdle : s.done = true → s.busy = false
  codeZero : s.err = false → s.errCode = 0
  codeKnown : s.err = true → s.errCode = 1 ∨ s.errCode = 2 ∨ s.errCode = 3 ∨ s.errCode = 4

/-- The buffers are in canonical form, and hold nothing outside their implemented bytes (R45). -/
structure MemOk (s : State) : Prop where
  canonical : s.mem.wf = true
  inBuffers : ∀ c ∈ s.mem, bufferByte s.cfg c.1

/-- OUT_LEN never exceeds its buffer, and no stale bit stands beyond it (R32, R57). -/
structure OutOk (s : State) : Prop where
  bounded : s.outLen.toNat ≤ s.cfg.maxMsg
  clear : ∀ i, s.outLen.toNat ≤ i → i < s.cfg.maxMsg → s.mem.bit .out i = false

/-- ENG holds only the fields of a legal command this part has (R34, R61), no error is pending while it is BUSY (R61),
and no latency is left when it is idle. -/
structure EngineOk (s : State) : Prop where
  legal : ∀ c, s.eng = .busy c → ∃ i : Instr, c = commandOf i ∧ i.wellFormed s.cfg = true
  errFree : s.busy = true → s.err = false
  waitIdle : s.busy = false → s.wait = 0

/-- The invariant of the machine. -/
structure Inv (s : State) : Prop where
  status : StatusOk s
  memory : MemOk s
  output : OutOk s
  engine : EngineOk s

/-! ### The events of a step -/

/-- The next step is the host's write of `v` at an aligned offset `off` of the window. `rest` is what the host does
after. -/
def writeIsNext (s : State) (off : Nat) (v : Word) (rest : List HostOp) : Prop :=
  s.due = none ∧ ∃ addr x, s.inbox = .wr .word addr x :: rest ∧ busTarget .word addr = .ok off ∧
    hostValue s x = some v

/-- The next step is the host's read of an aligned offset `off` of the window into the name `n`. -/
def readIsNext (s : State) (off : Nat) (n : Nat) (rest : List HostOp) : Prop :=
  s.due = none ∧ ∃ addr, s.inbox = .rd .word addr n :: rest ∧ busTarget .word addr = .ok off

/-- The next step is the reset event. -/
def resetIsNext (s : State) (rest : List HostOp) : Prop := s.due = none ∧ s.inbox = .reset :: rest

/-- The next step is a completion (R37). -/
def completionIsNext (s : State) : Prop := s.due ≠ none

/-- The next step accepts a legal command (R61). -/
def acceptIsNext (s : State) : Prop :=
  s.busy = false ∧ ∃ v rest, writeIsNext s 0x008 v rest ∧ legalWord s.cfg v = true

/-- The next step reports an illegal command (R105). -/
def illegalIsNext (s : State) : Prop :=
  s.busy = false ∧ ∃ v rest, writeIsNext s 0x008 v rest ∧ legalWord s.cfg v = false

/-- The next step is a write to STATUS with bit `k` set (R47). -/
def w1cIsNext (s : State) (k : Nat) : Prop := ∃ v rest, writeIsNext s 0x00C v rest ∧ v.getLsbD k = true

/-- A location whose write a busy block drops (R48): CMD, SEED_LEN, KEY_LEN, MSG_LEN, or an implemented word of
SEED_BUF, KEY_BUF or MSG_BUF. -/
def droppedWhenBusy (p : Params) (off : Nat) : Prop :=
  locOf p off = .cmd ∨ (∃ b, b ≠ Buf.out ∧ locOf p off = .len b) ∨ ∃ b w, b ≠ Buf.out ∧ locOf p off = .buf b w

/-- The next step is a write that a busy block drops (R48). -/
def droppedIsNext (s : State) : Prop :=
  s.busy = true ∧ ∃ off v rest, writeIsNext s off v rest ∧ droppedWhenBusy s.cfg off

/-! ### How a command ends, and its frame -/

/-- The implicit destination of a command (R59): KEY_BUF and KEY_LEN for GEN, OUT_BUF and OUT_LEN for ENC and DEC. CLEAR
has none of its own: it writes them all. -/
def destOf : Instr → Option Buf
  | .genSha256 => some .key
  | .genKeccak => some .key
  | .genSha256X => some .key
  | .genKeccakX => some .key
  | .enc => some .out
  | .encStrict => some .out
  | .dec => some .out
  | .decStrict => some .out
  | .clear => none

/-- A command ended well: `succeed()` (R67). -/
def Succeeded (t : State) : Prop := t.busy = false ∧ t.done = true ∧ t.err = false ∧ t.errCode = 0

/-- A command ended with an error code (R101). -/
def FailedWith (code : BitVec 4) (t : State) : Prop :=
  t.busy = false ∧ t.done = true ∧ t.err = true ∧ t.errCode = code

/-- A buffer holds a vector, and 0 in every cell beyond it (R57). -/
def Holds (t : State) (b : Buf) (v : List Bool) : Prop := ∀ i, i < b.size t.cfg → t.mem.bit b i = v.getD i false

/-- What no command touches: the parameters and the host's own script. -/
def HostSame (s t : State) : Prop :=
  t.cfg = s.cfg ∧ t.drawn = s.drawn ∧ t.inbox = s.inbox ∧ t.names = s.names

/-- The frame of a command with destination `dest`: nothing but the destination buffer, its length register and the
STATUS fields BUSY, DONE, ERR and ERRCODE changes. -/
def FrameExcept (dest : Buf) (s t : State) : Prop :=
  HostSame s t ∧ t.irqEn = s.irqEn ∧ t.ovr = s.ovr ∧ (∀ b, b ≠ dest → t.len b = s.len b) ∧
    ∀ a, ¬(dest.base ≤ a ∧ a < dest.base + dest.size s.cfg / 8) → t.mem.read a = s.mem.read a

/-! ### Closed forms -/

/-- H's engine by HSEL: 0 is SHA-256, 1 is Keccak-256 (R69). -/
def hselHash : Bool → Hash
  | false => .sha256
  | true => .keccak256

/-- OP of the operation ENG holds (R34, R58). -/
def opCode : Op → BitVec 4
  | .gen => 1
  | .enc => 2
  | .dec => 3
  | .clear => 4

/-- C[x] of θ: the exclusive-or of the five lanes of a column (R84). -/
def columnParity (a : KeccakState) (x : Nat) : Lane :=
  keccakLane a x 0 ^^^ keccakLane a x 1 ^^^ keccakLane a x 2 ^^^ keccakLane a x 3 ^^^ keccakLane a x 4

/-- f 0 xor f 1 xor … xor f i (R92). -/
def prefixXor (f : Nat → Bool) : Nat → Bool
  | 0 => f 0
  | i + 1 => prefixXor f i ^^ f (i + 1)

/-- y 0 at 0, and y i xor y (i-1) after (R96). -/
def difference (y : Nat → Bool) (i : Nat) : Bool := if i = 0 then y 0 else y i ^^ y (i - 1)

end Sys2Proof.Safety
end

