-- ==== Sys2Proof/Certificates/Slice0/Obligations.lean ====
section
/-! DEFINITION. The statements about the gsi035 hash-expander core, from the numbered rules of spec/. -/

open Sys2Proof Sys2Proof.Machine Sys2Proof.Safety

/-! ### Reset -/

/-- R38: the reset value of every cell, with the default parameters of R8 (ID_VALUE of R21 is 0x48580807). -/
def Obligations.ResetLeavesSpecValues : Prop :=
  State.reset.idWord = 0x48580807 ∧ State.reset.ctrlWord = 0 ∧ State.reset.statusWord = 0 ∧
    (∀ b, State.reset.len b = 0) ∧ (∀ b i, State.reset.mem.bit b i = false) ∧
    State.reset.eng = .idle ∧ State.reset.irq = false

/-- The invariant holds at reset. -/
def Obligations.ResetMeetsInvariant : Prop := Inv State.reset

/-- R120 and R121: the reset event puts every cell at its reset value, whether the block was idle or BUSY (the command
is abandoned); the parameters, and so ID, stay. That a due completion comes before the reset line is the model's choice
(log entry 10). -/
def Obligations.ResetEventRestoresCells : Prop :=
  ∀ (s : State) (rest : List HostOp), resetIsNext s rest →
    ∃ t, step s = .next t ∧ t.irqEn = false ∧ t.statusWord = 0 ∧ t.errCode = 0 ∧ (∀ b, t.len b = 0) ∧
      (∀ b i, t.mem.bit b i = false) ∧ t.eng = .idle ∧ t.irq = false ∧ t.idWord = s.idWord ∧ t.inbox = rest

/-! ### Decoding, accept and illegal words -/

/-- The nine words of R65, each decoded to the command it stands for, and two illegal words (R62). -/
def Obligations.TableWordsDecode : Prop :=
  decodeTableWord 32 0x01 = some .genSha256 ∧ decodeTableWord 32 0x11 = some .genKeccak ∧
    decodeTableWord 32 0x21 = some .genSha256X ∧ decodeTableWord 32 0x31 = some .genKeccakX ∧
    decodeTableWord 32 0x02 = some .enc ∧ decodeTableWord 32 0x42 = some .encStrict ∧
    decodeTableWord 32 0x03 = some .dec ∧ decodeTableWord 32 0x43 = some .decStrict ∧
    decodeTableWord 32 0x04 = some .clear ∧ decodeTableWord 32 0x00 = none ∧ decodeTableWord 32 0x41 = none

/-- Decode and encode agree: over all 2^32 words, a word decodes to a command exactly when it is that command's
encoding; and the bytes of an encoding decode to it, with the bytes after it left over. -/
def Obligations.DecodeEncodeAgree : Prop :=
  (∀ (v : Word) (i : Instr), decodeWord v = .ok i ↔ v = encode i) ∧
    ∀ (i : Instr) (rest : List Byte), decode (encodeBytes i ++ rest) = .ok (i, rest)

/-- R61: a word is accepted exactly when the formula of the rule, with its masks and the part's parameters, holds of
it. -/
def Obligations.AcceptIsLegalityFormula : Prop :=
  ∀ (p : Params) (v : Word), (∃ i, acceptWord p v = .ok i) ↔ legalWord p v = true

/-- R62: the words whose write to CMD of an idle block is reported as ILLEGAL_CMD (code 3) are exactly those of its
list. -/
def Obligations.IllegalWordsAreListed : Prop :=
  ∀ (s : State) (v : Word), s.busy = false → ((busWrite 0x008 v s).errCode = 3 ↔
    ((fieldOp v = 0 ∨ 5 ≤ (fieldOp v).toNat) ∨
      (fieldOp v = 1 ∧ (fieldStrict v = true ∨ fieldRes v ≠ 0)) ∨
      ((fieldOp v = 2 ∨ fieldOp v = 3) ∧ (fieldHsel v = true ∨ fieldXtnd v = true ∨ fieldRes v ≠ 0)) ∨
      (fieldOp v = 4 ∧ v.extractLsb' 4 28 ≠ 0) ∨
      (fieldOp v = 1 ∧ s.cfg.hashes.has (hselHash (fieldHsel v)) = false) ∨
      (fieldOp v = 1 ∧ fieldXtnd v = true ∧ s.cfg.extend = false)))

/-- R61: accept of a legal command. ENG latches the word's fields, DONE, ERR, ERRCODE and OVR are cleared, and nothing
else of the block changes. -/
def Obligations.AcceptLatchesCommand : Prop :=
  ∀ (s : State) (v : Word) (rest : List HostOp), s.busy = false → writeIsNext s 0x008 v rest →
    legalWord s.cfg v = true →
    ∃ t c, step s = .next t ∧ t.eng = .busy c ∧ opCode c.op = fieldOp v ∧ c.hsel = v.getLsbD 4 ∧
      c.xtnd = v.getLsbD 5 ∧ c.strict = v.getLsbD 6 ∧ t.done = false ∧ t.err = false ∧ t.errCode = 0 ∧
      t.ovr = false ∧ t.irqEn = s.irqEn ∧ t.mem = s.mem ∧ (∀ b, t.len b = s.len b) ∧ t.cfg = s.cfg ∧
      t.inbox = rest ∧ t.names = s.names

/-- R105: an illegal word written to CMD while BUSY = 0 is reported in the same step: DONE 1, ERR 1, ERRCODE 3, OVR 0,
ENG idle, and no buffer and no length register changes. While BUSY = 1 it is dropped, with OVR. -/
def Obligations.IllegalWordIsReported : Prop :=
  (∀ (s : State) (v : Word) (rest : List HostOp), s.busy = false → writeIsNext s 0x008 v rest →
    legalWord s.cfg v = false →
    ∃ t, step s = .next t ∧ t.done = true ∧ t.err = true ∧ t.errCode = 3 ∧ t.ovr = false ∧ t.eng = .idle ∧
      t.busy = false ∧ t.mem = s.mem ∧ (∀ b, t.len b = s.len b) ∧ t.irqEn = s.irqEn ∧ t.cfg = s.cfg ∧
      t.inbox = rest ∧ t.names = s.names) ∧
    ∀ (s : State) (v : Word) (rest : List HostOp), s.busy = true → writeIsNext s 0x008 v rest →
      legalWord s.cfg v = false →
      ∃ t, step s = .next t ∧ t.ovr = true ∧ t.eng = s.eng ∧ t.done = s.done ∧ t.err = s.err ∧
        t.errCode = s.errCode ∧ t.mem = s.mem ∧ (∀ b, t.len b = s.len b) ∧ t.irqEn = s.irqEn ∧ t.cfg = s.cfg ∧
        t.inbox = rest ∧ t.names = s.names

/-! ### The step -/

/-- A step runs the decoded command. When a well-formed command's word is written to CMD of an idle block, then from
that step on a block with that ENG whose latency has passed steps by `exec` of the command; and so does the very next
step after `withFetchWord` places the word. The latency, the split of accept and `exec`, and `withFetchWord` are the
model's form (log entries 3, 7 and 12). -/
def Obligations.StepRunsDecodedCommand : Prop :=
  (∀ (s : State) (v : Word) (i : Instr) (rest : List HostOp), s.busy = false → writeIsNext s 0x008 v rest →
      decodeWord v = .ok i → i.wellFormed s.cfg = true →
      ∃ t, step s = .next t ∧ t.busy = true ∧ ∀ u : State, u.eng = t.eng → u.wait = 0 → step u = exec i u) ∧
    ∀ (s : State) (w : Nat) (i : Instr), decodeTableWord 32 w = some i → i.wellFormed s.cfg = true →
      step (s.withFetchWord 32 w) = exec i (s.withFetchWord 32 w)

/-- What a step is when no completion is due: the host's next line, one step of latency having passed, or nothing but
that step of latency. The list of lines and the latency in steps are the model's form (log entries 3 and 5). -/
def Obligations.StepRunsHostLine : Prop :=
  (∀ s : State, s.due = none → s.inbox = [] → step s = .next s.tick) ∧
    (∀ (s : State) (off : Nat) (v : Word) (rest : List HostOp), writeIsNext s off v rest →
      step s = .next (busWrite off v (s.tick.setInbox rest))) ∧
    ∀ (s : State) (off n : Nat) (rest : List HostOp), readIsNext s off n rest →
      step s = .next ((busRead off (s.tick.setInbox rest)).2.bind n (busRead off (s.tick.setInbox rest)).1)

/-- R66: one turn of POLL reads STATUS, binds it, and stays exactly while BUSY reads 1. The bound names
are the model's form (log entry 6). -/
def Obligations.PollRepeatsWhileBusy : Prop :=
  ∀ (s : State) (n : Nat) (rest : List HostOp), s.due = none → s.inbox = .poll n :: rest →
    ∃ t, step s = .next t ∧ hostValue t (.name n) = some s.statusWord ∧
      t.inbox = (if s.busy = true then .poll n :: rest else rest) ∧ t.eng = s.eng ∧ t.mem = s.mem ∧
      t.statusWord = s.statusWord ∧ (∀ b, t.len b = s.len b) ∧ t.irqEn = s.irqEn ∧ t.cfg = s.cfg

/-- R66 and R110: the line `CMD mnemonic` on an idle block that has the command starts it, and the line `CLRST`
acknowledges the outcome of the last one: it clears DONE, ERR, ERRCODE and OVR and nothing else. -/
def Obligations.ScriptLinesTakeEffect : Prop :=
  (∀ (s : State) (i : Instr) (rest : List HostOp), s.busy = false → i.wellFormed s.cfg = true →
      s.inbox = scriptCmd i :: rest → ∃ t, step s = .next t ∧ t.eng = .busy (commandOf i) ∧ t.done = false ∧
        t.mem = s.mem ∧ (∀ b, t.len b = s.len b) ∧ t.irqEn = s.irqEn ∧ t.cfg = s.cfg ∧ t.inbox = rest) ∧
    ∀ (s : State) (rest : List HostOp), s.due = none → s.inbox = scriptClrst :: rest →
      ∃ t, step s = .next t ∧ t.done = false ∧ t.err = false ∧ t.errCode = 0 ∧ t.ovr = false ∧ t.irq = false ∧
        t.eng = s.eng ∧ t.mem = s.mem ∧ (∀ b, t.len b = s.len b) ∧ t.irqEn = s.irqEn ∧ t.cfg = s.cfg ∧
        t.inbox = rest

/-- R66 with R44 and R47: LOADVEC on an idle block leaves the length register `r` it names at the vector's length, and
the words of the buffer `b` it names that the vector reaches at the vector's bits, missing bits 0; where `r` is the
length register of `b`, the operand vector of `b` is the vector. OUT_LEN and OUT_BUF ignore the writes. One line a step
is the model's form (log entry 5). -/
def Obligations.LoadVecLoadsVector : Prop :=
  ∀ (s : State) (b r : Buf) (bits : List Bool) (rest : List HostOp), s.busy = false →
    bits.length ≤ b.size s.cfg → s.inbox = scriptLoadVec b r bits ++ rest →
    ∃ t, core.run (1 + (bits.length + 31) / 32) s = .next t ∧
      (∀ c, t.len c = if c = r ∧ c ≠ .out then BitVec.ofNat 16 bits.length else s.len c) ∧
      (r ≠ .out → (t.len r).toNat = bits.length) ∧
      (∀ c i, i < c.size s.cfg → t.mem.bit c i =
        if c = b ∧ c ≠ .out ∧ i < 32 * ((bits.length + 31) / 32) then bits.getD i false else s.mem.bit c i) ∧
      (r = b → b ≠ .out → t.vec b = bits) ∧ t.inbox = rest ∧ t.eng = .idle ∧ t.statusWord = s.statusWord ∧
      t.irqEn = s.irqEn ∧ t.cfg = s.cfg

/-! ### Host transactions -/

/-- R42: a transaction in the window that is not 32 bits wide, or not at a multiple of 4, is a bus error: a host fault,
with no state after it. -/
def Obligations.BusErrorFaults : Prop :=
  ∀ (s : State) (w : Width) (off n : Nat) (x : HostVal), off < 4096 → (w ≠ .word ∨ off % 4 ≠ 0) →
    hostWrite w (.offset off) x s = .fault .busError ∧ hostRead w (.offset off) n s = .fault .busError

/-- R39, with the model's own fault (log entry 8): a transaction outside the window of 4096 bytes is none of the
block's, and stops the run, be it named by an offset or by an address of the host's map, below P_BASE or past the
window's end. The host address P_BASE + off is offset `off` (log entry 2). -/
def Obligations.WindowHas4096Bytes : Prop :=
  (∀ (s : State) (w : Width) (off n : Nat) (x : HostVal), 4096 ≤ off →
      hostWrite w (.offset off) x s = .fault .outsideWindow ∧ hostRead w (.offset off) n s = .fault .outsideWindow) ∧
    (∀ (s : State) (w : Width) (a n : Nat) (x : HostVal), (a < Config.pBase ∨ Config.pBase + 4096 ≤ a) →
      hostWrite w (.host a) x s = .fault .outsideWindow ∧ hostRead w (.host a) n s = .fault .outsideWindow) ∧
    ∀ (w : Width) (off : Nat), busTarget w (.host (Config.pBase + off)) = busTarget w (.offset off)

/-- R21: the fields of ID, for every legal choice of the parameters; writes are ignored, and reset leaves it. -/
def Obligations.IdHasItsFields : Prop :=
  ∀ (s : State), (busRead 0x000 s).1.extractLsb' 24 8 = 0x48 ∧ (busRead 0x000 s).1.extractLsb' 16 8 = 0x58 ∧
    ((busRead 0x000 s).1.extractLsb' 8 8).toNat = s.cfg.maxSeed / 32 ∧
    (busRead 0x000 s).1.extractLsb' 3 5 = 0 ∧ (busRead 0x000 s).1.getLsbD 2 = s.cfg.extend ∧
    (busRead 0x000 s).1.getLsbD 1 = s.cfg.hashes.has .keccak256 ∧
    (busRead 0x000 s).1.getLsbD 0 = s.cfg.hashes.has .sha256 ∧ (∀ v, busWrite 0x000 v s = s) ∧
    (s.cfg = Config.defaultParams → (busRead 0x000 s).1 = 0x48580807) ∧
    (busRead 0x000 s.resetBlock).1 = (busRead 0x000 s).1

/-- R25, and the layout of R24: the fields of STATUS as the host reads them, at any time. BUSY is 1 exactly when ENG is
BUSY. -/
def Obligations.StatusHasItsFields : Prop :=
  ∀ (s : State), (busRead 0x00C s).2 = s ∧ ((busRead 0x00C s).1.getLsbD 0 = true ↔ ∃ c, s.eng = .busy c) ∧
    (busRead 0x00C s).1.getLsbD 1 = s.done ∧ (busRead 0x00C s).1.getLsbD 2 = s.err ∧
    (busRead 0x00C s).1.getLsbD 3 = s.ovr ∧ (busRead 0x00C s).1.extractLsb' 4 4 = s.errCode ∧
    (busRead 0x00C s).1.extractLsb' 8 24 = 0

/-- R46: while BUSY = 0 every read is exact and changes nothing, and the reads of ID, CTRL, CMD and STATUS, and of
reserved and unimplemented locations, are so at any time. -/
def Obligations.ReadsAreExact : Prop :=
  (∀ (s : State), busRead 0x000 s = (idValue s.cfg, s) ∧ busRead 0x004 s = ((BitVec.ofBool s.irqEn).setWidth 32, s) ∧
      busRead 0x008 s = (0, s) ∧
      busRead 0x00C s = ((s.errCode ++ BitVec.ofBool s.ovr ++ BitVec.ofBool s.err ++ BitVec.ofBool s.done
        ++ BitVec.ofBool s.busy).setWidth 32, s)) ∧
    (∀ (s : State), s.busy = false → busRead 0x010 s = (s.seedLen.setWidth 32, s) ∧
      busRead 0x014 s = (s.keyLen.setWidth 32, s) ∧ busRead 0x018 s = (s.msgLen.setWidth 32, s) ∧
      busRead 0x01C s = (s.outLen.setWidth 32, s)) ∧
    (∀ (s : State) (b : Buf) (w : Nat), s.busy = false → 32 * w < b.size s.cfg →
      (busRead (b.base + 4 * w) s).2 = s ∧
        ∀ i, i < 32 → (busRead (b.base + 4 * w) s).1.getLsbD i = s.mem.bit b (32 * w + i)) ∧
    ∀ (s : State) (off : Nat), ((0x020 ≤ off ∧ off ≤ 0x0FF) ∨ 0x500 ≤ off ∨
        ∃ (b : Buf) (w : Nat), w < 64 ∧ b.size s.cfg ≤ 32 * w ∧ off = b.base + 4 * w) →
      busRead off s = (0, s)

/-- R49, and the model's own free value (log entry 4): while BUSY = 1 a read of a length register or of an implemented
buffer word returns a free value, and no cell of the block changes. -/
def Obligations.BusyReadsAreFree : Prop :=
  ∀ (s : State) (off : Nat), s.busy = true →
    ((∃ b, locOf s.cfg off = .len b) ∨ ∃ b w, locOf s.cfg off = .buf b w) →
    busRead off s = (Config.busyRead s.drawn, s.draw)

/-- R41 and R45: reserved locations and unimplemented buffer words read 0 and ignore writes, at any time, and OVR is
not set. -/
def Obligations.ReservedReadsZeroIgnoresWrites : Prop :=
  ∀ (s : State) (off : Nat) (v : Word),
    ((0x020 ≤ off ∧ off ≤ 0x0FF) ∨ 0x500 ≤ off ∨ ∃ (b : Buf) (w : Nat), w < 64 ∧ b.size s.cfg ≤ 32 * w ∧
      off = b.base + 4 * w) →
    busRead off s = (0, s) ∧ busWrite off v s = s

/-- R47: a write to CTRL, STATUS, ID, OUT_LEN or OUT_BUF, which R48 says is the same at any time. irq follows the CTRL
write at once (R36). -/
def Obligations.ControlWritesTakeEffect : Prop :=
  ∀ (s : State) (v : Word),
    busWrite 0x004 v s = { s with irqEn := v.getLsbD 0 } ∧ (busWrite 0x004 v s).irq = (v.getLsbD 0 && s.done) ∧
    busWrite 0x00C v s =
      { s with
        done := s.done && !v.getLsbD 1
        err := s.err && !v.getLsbD 2
        errCode := if v.getLsbD 2 = true then 0 else s.errCode
        ovr := s.ovr && !v.getLsbD 3 } ∧
    busWrite 0x01C v s = s ∧ ∀ w, w < 64 → busWrite (0x400 + 4 * w) v s = s

/-- R47: while BUSY = 0 a length register takes the low 16 bits written, and reads back. -/
def Obligations.IdleLengthWrites : Prop :=
  ∀ (s : State) (v : Word), s.busy = false →
    busWrite 0x010 v s = { s with seedLen := v.extractLsb' 0 16 } ∧
    busWrite 0x014 v s = { s with keyLen := v.extractLsb' 0 16 } ∧
    busWrite 0x018 v s = { s with msgLen := v.extractLsb' 0 16 } ∧
    (busRead 0x010 (busWrite 0x010 v s)).1 = v &&& 0x0000FFFF

/-- R47 and R44: while BUSY = 0 an implemented word of an input buffer takes the word written, bit by bit, and nothing
else changes; the word reads back. -/
def Obligations.IdleBufferWrites : Prop :=
  ∀ (s : State) (b : Buf) (w : Nat) (v : Word), s.busy = false → b ≠ .out → 32 * w < b.size s.cfg →
    ∃ m, busWrite (b.base + 4 * w) v s = { s with mem := m } ∧
      (∀ i, i < 32 → m.bit b (32 * w + i) = v.getLsbD i) ∧
      (∀ a, ¬(b.base + 4 * w ≤ a ∧ a < b.base + 4 * w + 4) → m.read a = s.mem.read a) ∧
      (busRead (b.base + 4 * w) (busWrite (b.base + 4 * w) v s)).1 = v

/-- R48: what a write does while BUSY = 1. To CMD, SEED_LEN, KEY_LEN or MSG_LEN, or an implemented word of an input
buffer, it is dropped: OVR becomes 1 and nothing else changes. To CTRL or STATUS it takes effect. To ID, OUT_LEN, an
OUT_BUF word, or a reserved or unimplemented location it has no effect. -/
def Obligations.BusyWritesAreDropped : Prop :=
  ∀ (s : State) (v : Word), s.busy = true →
    (∀ off, (off = 0x008 ∨ off = 0x010 ∨ off = 0x014 ∨ off = 0x018 ∨
        ∃ (b : Buf) (w : Nat), b ≠ .out ∧ 32 * w < b.size s.cfg ∧ off = b.base + 4 * w) →
      busWrite off v s = { s with ovr := true }) ∧
    busWrite 0x004 v s = { s with irqEn := v.getLsbD 0 } ∧
    busWrite 0x00C v s =
      { s with
        done := s.done && !v.getLsbD 1
        err := s.err && !v.getLsbD 2
        errCode := if v.getLsbD 2 = true then 0 else s.errCode
        ovr := s.ovr && !v.getLsbD 3 } ∧
    ∀ off, (off = 0x000 ∨ off = 0x01C ∨ (∃ w, w < 64 ∧ off = 0x400 + 4 * w) ∨
        (0x020 ≤ off ∧ off ≤ 0x0FF) ∨ 0x500 ≤ off ∨
        ∃ (b : Buf) (w : Nat), w < 64 ∧ b.size s.cfg ≤ 32 * w ∧ off = b.base + 4 * w) →
      busWrite off v s = s

/-! ### GEN -/

/-- R67 and R57: the success of GEN, for its four words. -/
def Obligations.GenWritesKey : Prop :=
  ∀ (hsel xtnd : Bool) (s : State), s.seedLen.toNat ≤ s.cfg.maxSeed → (xtnd = true ∨ s.seedLen.toNat ≤ 64) →
    ∃ t, exec (genOf hsel xtnd) s = .next t ∧ Succeeded t ∧ t.keyLen.toNat = 4 * s.seedLen.toNat ∧
      Holds t .key (expandN (hselHash hsel) (render (s.vec .seed)) (4 * s.seedLen.toNat)) ∧ FrameExcept .key s t

/-- R106, R107, R109 and R102: the failures of GEN, for its four words. -/
def Obligations.GenFailsClearingKey : Prop :=
  (∀ (hsel xtnd : Bool) (s : State), s.cfg.maxSeed < s.seedLen.toNat →
      ∃ t, exec (genOf hsel xtnd) s = .next t ∧ FailedWith 4 t ∧ t.keyLen = 0 ∧ Holds t .key [] ∧
        FrameExcept .key s t) ∧
    ∀ (hsel : Bool) (s : State), s.seedLen.toNat ≤ s.cfg.maxSeed → 64 < s.seedLen.toNat →
      ∃ t, exec (genOf hsel false) s = .next t ∧ FailedWith 1 t ∧ t.keyLen = 0 ∧ Holds t .key [] ∧
        FrameExcept .key s t

/-- R73: the length contract of GEN. -/
def Obligations.GenLengthContract : Prop :=
  ∀ (hsel xtnd : Bool) (s : State), ∃ t, exec (genOf hsel xtnd) s = .next t ∧
    (t.err = false ↔ s.seedLen.toNat ≤ if xtnd = true then s.cfg.maxSeed else 64) ∧
    (t.err = false → t.keyLen.toNat = 4 * s.seedLen.toNat) ∧ (t.err = true → t.keyLen.toNat = 0)

/-- R70 and R71: the bits of the expansion. There are exactly `l`; bit k is a bit of digest block k div 256, most
significant bit of each byte first. -/
def Obligations.ExpansionBits : Prop :=
  ∀ (h : Hash) (b : List Byte) (l : Nat), (expandN h b l).length = l ∧
    ∀ k, k < l → (expandN h b l).getD k false =
      ((hashBytes h (if k / 256 = 0 then b else b ++ beBytes 4 (k / 256))).getD (k % 256 / 8) 0).getLsbD
        (7 - k % 8)

/-- R69: every digest has 32 bytes. -/
def Obligations.DigestsHave32Bytes : Prop :=
  ∀ (b : List Byte), (sha256 b).length = 32 ∧ (keccak256 b).length = 32

/-- R74: the prefix law of GEN. -/
def Obligations.GenPrefixLaw : Prop :=
  ∀ (hsel : Bool) (s t u : State), exec (genOf hsel false) s = .next t → exec (genOf hsel true) s = .next u →
    (s.seedLen.toNat ≤ 64 → u.keyLen = t.keyLen ∧ ∀ i, i < s.cfg.maxKey → u.mem.bit .key i = t.mem.bit .key i) ∧
    (64 < s.seedLen.toNat → s.seedLen.toNat ≤ s.cfg.maxSeed → ∀ i, i < 256 →
      u.mem.bit .key i = (expandDigest (hashBytes (hselHash hsel) (render (s.vec .seed)))).getD i false)

/-- R75: GEN reads nothing but SEED_LEN, the first n bits of SEED_BUF, HSEL and XTND. -/
def Obligations.GenIsDeterministic : Prop :=
  ∀ (hsel xtnd : Bool) (s s' t t' : State), s.cfg = s'.cfg → s.seedLen = s'.seedLen →
    (∀ i, i < s.seedLen.toNat → s.mem.bit .seed i = s'.mem.bit .seed i) →
    exec (genOf hsel xtnd) s = .next t → exec (genOf hsel xtnd) s' = .next t' →
    t.keyLen = t'.keyLen ∧ t.err = t'.err ∧ t.errCode = t'.errCode ∧
      ∀ i, i < s.cfg.maxKey → t.mem.bit .key i = t'.mem.bit .key i

/-! ### The hash engines -/

/-- R76: SHA-256 padding, with the least number of zero bytes, to a whole number of 64-byte blocks. -/
def Obligations.ShaPaddingIsLeast : Prop :=
  ∀ b : List Byte, ∃ k, (b.length + 1 + k) % 64 = 56 ∧ (∀ j, (b.length + 1 + j) % 64 = 56 → k ≤ j) ∧
    shaPad b = b ++ [0x80] ++ List.replicate k 0x00 ++ beBytes 8 (8 * b.length) ∧ (shaPad b).length % 64 = 0

/-- R80: the message schedule. -/
def Obligations.ShaScheduleRecurrence : Prop :=
  ∀ m : List Byte, m.length = 64 → (shaSchedule m).length = 64 ∧
    (∀ t, t < 16 → (shaSchedule m).getD t 0 =
      m.getD (4 * t) 0 ++ m.getD (4 * t + 1) 0 ++ m.getD (4 * t + 2) 0 ++ m.getD (4 * t + 3) 0) ∧
    ∀ t, 16 ≤ t → t < 64 → (shaSchedule m).getD t 0 =
      shaSmallS1 ((shaSchedule m).getD (t - 2) 0) + (shaSchedule m).getD (t - 7) 0 +
        shaSmallS0 ((shaSchedule m).getD (t - 15) 0) + (shaSchedule m).getD (t - 16) 0

/-- R82: Keccak-256 padding, with the least number of zero bytes, to a whole number of 136-byte blocks, the last byte's
top bit set. -/
def Obligations.KeccakPaddingIsLeast : Prop :=
  ∀ b : List Byte, ∃ k, (b.length + 1 + k) % 136 = 0 ∧ (∀ j, (b.length + 1 + j) % 136 = 0 → k ≤ j) ∧
    (keccakPad b).length = b.length + 1 + k ∧
    ∀ i, i < b.length + 1 + k → (keccakPad b).getD i 0 =
      (b ++ [0x01] ++ List.replicate k 0x00).getD i 0 ||| (if i = b.length + k then 0x80 else 0x00)

/-- R86: ρ and π together send the rotated lane (x, y) to (y, 2x + 3y mod 5). -/
def Obligations.KeccakRhoPiMovesLanes : Prop :=
  ∀ (a : KeccakState) (x y : Nat), x < 5 → y < 5 →
    keccakLane (keccakRhoPi a) y ((2 * x + 3 * y) % 5) = (keccakLane a x y).rotateLeft (keccakRot x y)

/-- R84 and R87: what θ and χ make of each lane. -/
def Obligations.KeccakThetaChiOnLanes : Prop :=
  (∀ (a : KeccakState) (x y : Nat), x < 5 → y < 5 →
    keccakLane (keccakTheta a) x y = keccakLane a x y ^^^ (columnParity a ((x + 4) % 5) ^^^
      (columnParity a ((x + 1) % 5)).rotateLeft 1)) ∧
    ∀ (b : KeccakState) (x y : Nat), x < 5 → y < 5 →
      keccakLane (keccakChi b) x y =
        keccakLane b x y ^^^ (~~~keccakLane b ((x + 1) % 5) y &&& keccakLane b ((x + 2) % 5) y)

/-! ### ENC and DEC -/

/-- R92 and R93, with R91's success: ENC and ENC.STRICT. -/
def Obligations.EncWritesChainedMix : Prop :=
  ∀ (strict : Bool) (s : State), s.keyLen.toNat ≤ s.cfg.maxKey → s.msgLen.toNat ≤ s.cfg.maxMsg →
    (strict = true → s.keyLen = s.msgLen) →
    ∃ t, exec (encOf strict) s = .next t ∧ Succeeded t ∧ t.outLen.toNat = min s.keyLen.toNat s.msgLen.toNat ∧
      (∀ i, i < s.cfg.maxMsg → t.mem.bit .out i =
        if i < min s.keyLen.toNat s.msgLen.toNat then s.mem.bit .key i ^^ prefixXor (s.mem.bit .msg) i
        else false) ∧
      FrameExcept .out s t

/-- R96 (closed form) and R98, with R95's success: DEC and DEC.STRICT. -/
def Obligations.DecWritesDifferences : Prop :=
  ∀ (strict : Bool) (s : State), s.keyLen.toNat ≤ s.cfg.maxKey → s.msgLen.toNat ≤ s.cfg.maxMsg →
    (strict = true → s.keyLen = s.msgLen) →
    ∃ t, exec (decOf strict) s = .next t ∧ Succeeded t ∧ t.outLen.toNat = min s.keyLen.toNat s.msgLen.toNat ∧
      (∀ i, i < s.cfg.maxMsg → t.mem.bit .out i =
        if i < min s.keyLen.toNat s.msgLen.toNat then difference (fun j => s.mem.bit .msg j ^^ s.mem.bit .key j) i
        else false) ∧
      FrameExcept .out s t

/-- R106, R109 and R102: a length over its buffer's capacity ends ENC, ENC.STRICT, DEC and DEC.STRICT with
LENGTH_RANGE, whatever STRICT says. -/
def Obligations.CipherRangeFails : Prop :=
  ∀ (i : Instr) (s : State), (i = .enc ∨ i = .encStrict ∨ i = .dec ∨ i = .decStrict) →
    (s.cfg.maxKey < s.keyLen.toNat ∨ s.cfg.maxMsg < s.msgLen.toNat) →
    ∃ t, exec i s = .next t ∧ FailedWith 4 t ∧ t.outLen = 0 ∧ Holds t .out [] ∧ FrameExcept .out s t

/-- R104 and R109: the strict commands end with LENGTH_MISMATCH on unequal lengths, after the range check has passed;
the others never do. -/
def Obligations.StrictMismatchFails : Prop :=
  (∀ (i : Instr) (s : State), (i = .encStrict ∨ i = .decStrict) → s.keyLen.toNat ≤ s.cfg.maxKey →
      s.msgLen.toNat ≤ s.cfg.maxMsg → s.keyLen ≠ s.msgLen →
      ∃ t, exec i s = .next t ∧ FailedWith 2 t ∧ t.outLen = 0 ∧ Holds t .out [] ∧ FrameExcept .out s t) ∧
    ∀ (i : Instr) (s t : State), (i = .enc ∨ i = .dec) → exec i s = .next t → t.errCode ≠ 2

/-- R94: for a fixed key, exclusive-or of the message with Δ is exclusive-or of the ciphertext with the prefix XOR of
Δ; so flipping message bit j flips exactly the ciphertext bits from j on; and flipping key bit j flips ciphertext bit j
alone. -/
def Obligations.EncDiffusionLaw : Prop :=
  ∀ (s s' t t' : State), s.keyLen.toNat ≤ s.cfg.maxKey → s.msgLen.toNat ≤ s.cfg.maxMsg → s'.cfg = s.cfg →
    s'.keyLen = s.keyLen → s'.msgLen = s.msgLen → exec .enc s = .next t → exec .enc s' = .next t' →
    (∀ d : Nat → Bool,
      (∀ i, i < s.cipherLen → s'.mem.bit .key i = s.mem.bit .key i) →
      (∀ i, i < s.cipherLen → s'.mem.bit .msg i = (s.mem.bit .msg i ^^ d i)) →
      ∀ i, i < s.cipherLen → t'.mem.bit .out i = (t.mem.bit .out i ^^ prefixXor d i)) ∧
    (∀ j, j < s.cipherLen →
      (∀ i, i < s.cipherLen → s'.mem.bit .key i = s.mem.bit .key i) →
      (∀ i, i < s.cipherLen → s'.mem.bit .msg i = (s.mem.bit .msg i ^^ decide (i = j))) →
      ∀ i, i < s.cipherLen → t'.mem.bit .out i = (t.mem.bit .out i ^^ decide (j ≤ i))) ∧
    ∀ j, j < s.cipherLen →
      (∀ i, i < s.cipherLen → s'.mem.bit .key i = (s.mem.bit .key i ^^ decide (i = j))) →
      (∀ i, i < s.cipherLen → s'.mem.bit .msg i = s.mem.bit .msg i) →
      ∀ i, i < s.cipherLen → t'.mem.bit .out i = (t.mem.bit .out i ^^ decide (i = j))

/-- R96, for DEC: flipping ciphertext bit j, or key bit j, flips exactly those of plaintext bits j and j+1 that are below
m. -/
def Obligations.DecErrorPropagation : Prop :=
  ∀ (s s' t t' : State) (j : Nat) (onKey : Bool), s.keyLen.toNat ≤ s.cfg.maxKey →
    s.msgLen.toNat ≤ s.cfg.maxMsg → s'.cfg = s.cfg → s'.keyLen = s.keyLen → s'.msgLen = s.msgLen →
    j < s.cipherLen →
    (∀ i, i < s.cipherLen → s'.mem.bit .key i = (s.mem.bit .key i ^^ (onKey && decide (i = j)))) →
    (∀ i, i < s.cipherLen → s'.mem.bit .msg i = (s.mem.bit .msg i ^^ (!onKey && decide (i = j)))) →
    exec .dec s = .next t → exec .dec s' = .next t' →
    ∀ i, i < s.cipherLen → t'.mem.bit .out i = (t.mem.bit .out i ^^ (decide (i = j) || decide (i = j + 1)))

/-- R97: the round-trip law, both ways. `t` is after the first command, `u` is `t` with its output copied to the
message, `r` is after the inverse command under the same key. -/
def Obligations.RoundTripLaw : Prop :=
  ∀ (i j : Instr) (s t u r : State), (i = .enc ∧ j = .dec ∨ i = .dec ∧ j = .enc) →
    s.keyLen.toNat ≤ s.cfg.maxKey → s.msgLen.toNat ≤ s.cfg.maxMsg → exec i s = .next t →
    u.cfg = s.cfg → u.keyLen = s.keyLen → (∀ k, k < s.keyLen.toNat → u.mem.bit .key k = s.mem.bit .key k) →
    u.msgLen = t.outLen → (∀ k, k < t.outLen.toNat → u.mem.bit .msg k = t.mem.bit .out k) →
    exec j u = .next r →
    r.err = false ∧ r.vec .out = (s.vec .msg).take (min s.keyLen.toNat s.msgLen.toNat)

/-! ### CLEAR, and all commands -/

/-- R99: CLEAR, the word 0x00000004, zeroes every buffer and every length register and always succeeds; CTRL and OVR
stay. -/
def Obligations.ClearZeroises : Prop :=
  (∀ v : Word, decodeWord v = .ok .clear ↔ v = 0x00000004) ∧
    ∀ s : State, ∃ t, exec .clear s = .next t ∧ Succeeded t ∧ (∀ b, t.len b = 0) ∧ (∀ b, Holds t b []) ∧
      t.irqEn = s.irqEn ∧ t.ovr = s.ovr ∧ HostSame s t ∧
      ∀ a, ¬bufferByte s.cfg a → t.mem.read a = s.mem.read a

/-- R22 and R28: neither CTRL nor OVR has an effect on any command's result. -/
def Obligations.CtrlAndOvrDoNotMatter : Prop :=
  ∀ (i : Instr) (s t : State) (b : Bool), exec i s = .next t →
    exec i (s.setIrqEn b) = .next (t.setIrqEn b) ∧ exec i s.setOvr = .next t.setOvr

/-- R101: a command that raises an error changes nothing but STATUS and its own destination (R59): SEED_BUF, MSG_BUF,
SEED_LEN, MSG_LEN and CTRL never change, and the destination, KEY for a GEN and OUT for an ENC or DEC, is cleared (R109).
CLEAR, which has no such destination, raises none (R99). -/
def Obligations.ErrorsArePrecise : Prop :=
  ∀ (i : Instr) (s t : State), exec i s = .next t → t.err = true →
    ∃ dest : Buf, destOf i = some dest ∧ FailedWith t.errCode t ∧
      (t.errCode = 1 ∨ t.errCode = 2 ∨ t.errCode = 4) ∧ t.len dest = 0 ∧ Holds t dest [] ∧ FrameExcept dest s t

/-- R104, R106 and R107: a command ends with LENGTH_MISMATCH (2), LENGTH_RANGE (4) or KEY_TOO_LONG (1) exactly in the
cases of those rules, in the order of R102; and it never ends with another code. -/
def Obligations.ErrorCodesHaveTheirCauses : Prop :=
  ∀ (i : Instr) (s t : State), exec i s = .next t →
    (t.errCode = 4 ↔
      (∃ hsel xtnd, i = genOf hsel xtnd ∧ s.cfg.maxSeed < s.seedLen.toNat) ∨
      ((i = .enc ∨ i = .encStrict ∨ i = .dec ∨ i = .decStrict) ∧
        (s.cfg.maxKey < s.keyLen.toNat ∨ s.cfg.maxMsg < s.msgLen.toNat))) ∧
    (t.errCode = 1 ↔
      ∃ hsel, i = genOf hsel false ∧ s.seedLen.toNat ≤ s.cfg.maxSeed ∧ 256 < 4 * s.seedLen.toNat) ∧
    (t.errCode = 2 ↔
      (i = .encStrict ∨ i = .decStrict) ∧ s.keyLen.toNat ≤ s.cfg.maxKey ∧ s.msgLen.toNat ≤ s.cfg.maxMsg ∧
        s.keyLen ≠ s.msgLen) ∧
    (t.errCode = 0 ∨ t.errCode = 1 ∨ t.errCode = 2 ∨ t.errCode = 4) ∧ (t.err = false ↔ t.errCode = 0)

/-- R90: no command leaves a key shorter than four times the seed: KEY_LEN is 4n or 0 after every GEN, and the key
buffer holds nothing beyond it. -/
def Obligations.NoShortKey : Prop :=
  ∀ (hsel xtnd : Bool) (s t : State), exec (genOf hsel xtnd) s = .next t →
    (t.keyLen.toNat = 4 * s.seedLen.toNat ∧ t.err = false ∨ t.keyLen.toNat = 0 ∧ t.err = true) ∧
      ∀ i, t.keyLen.toNat ≤ i → i < s.cfg.maxKey → t.mem.bit .key i = false

/-! ### The whole machine -/

/-- Every step keeps the invariant. -/
def Obligations.StepKeepsInvariant : Prop := ∀ s t : State, Inv s → step s = .next t → Inv t

/-- R26 and R27: every step keeps STATUS consistent. -/
def Obligations.StepKeepsStatusConsistent : Prop :=
  ∀ s t : State, StatusOk s → step s = .next t → StatusOk t

/-- R21 and R120: no step changes the part's parameters, so a read of ID always gives the same word. -/
def Obligations.IdIsHardwired : Prop :=
  ∀ s t : State, step s = .next t → t.cfg = s.cfg ∧ (busRead 0x000 t).1 = (busRead 0x000 s).1

/-- R24, column "set by": the only events that set BUSY, DONE, ERR and OVR. -/
def Obligations.StatusBitsSetOnlyBy : Prop :=
  ∀ s t : State, step s = .next t →
    (s.busy = false → t.busy = true → acceptIsNext s) ∧
    (s.done = false → t.done = true → completionIsNext s ∨ illegalIsNext s) ∧
    (s.err = false → t.err = true → completionIsNext s ∨ illegalIsNext s) ∧
    (s.ovr = false → t.ovr = true → droppedIsNext s)

/-- R24, column "cleared by": the only events that clear BUSY, DONE, ERR and OVR. (No error is pending while BUSY: that
is part of the invariant.) -/
def Obligations.StatusBitsClearedOnlyBy : Prop :=
  ∀ s t : State, EngineOk s → step s = .next t →
    (s.busy = true → t.busy = false → completionIsNext s ∨ ∃ rest, resetIsNext s rest) ∧
    (s.done = true → t.done = false → w1cIsNext s 1 ∨ acceptIsNext s ∨ ∃ rest, resetIsNext s rest) ∧
    (s.err = true → t.err = false →
      w1cIsNext s 2 ∨ acceptIsNext s ∨ ∃ rest, resetIsNext s rest) ∧
    (s.ovr = true → t.ovr = false →
      w1cIsNext s 3 ∨ acceptIsNext s ∨ illegalIsNext s ∨ ∃ rest, resetIsNext s rest)

/-- R36: irq is IRQ_EN and DONE at every instant, and 0 at reset. Over a step it rises only at a completion or an
illegal-command report with IRQ_EN = 1, or at a write of 1 to IRQ_EN while DONE = 1; it falls only where DONE is cleared,
or at a write of 0 to IRQ_EN. At a completion, and at an illegal-command report, it becomes IRQ_EN. -/
def Obligations.IrqChangesOnlyBy : Prop :=
  (∀ s : State, s.irq = (s.irqEn && s.done)) ∧ State.reset.irq = false ∧
    ∀ s t : State, step s = .next t →
      (s.irq = false → t.irq = true →
        (s.irqEn = true ∧ (completionIsNext s ∨ illegalIsNext s)) ∨
        (s.done = true ∧ ∃ v rest, writeIsNext s 0x004 v rest ∧ v.getLsbD 0 = true)) ∧
      (s.irq = true → t.irq = false →
        w1cIsNext s 1 ∨ acceptIsNext s ∨ (∃ rest, resetIsNext s rest) ∨
        ∃ v rest, writeIsNext s 0x004 v rest ∧ v.getLsbD 0 = false) ∧
      (completionIsNext s → t.irq = s.irqEn) ∧
      (illegalIsNext s → t.irq = s.irqEn)

/-- R34 and R18: while ENG is BUSY, the inputs of the command cannot change. After any `k` steps that do not pass the
latency, with no reset among the host's lines, ENG, every length register, every buffer and the parameters are those at
accept; so the completion works on the operands at accept. The latency in steps is the model's form (log entry 3). -/
def Obligations.OperandsAreThoseAtAccept : Prop :=
  ∀ (k : Nat) (s t : State), s.busy = true → k ≤ s.wait → HostOp.reset ∉ s.inbox → core.run k s = .next t →
    t.eng = s.eng ∧ t.wait = s.wait - k ∧ t.mem = s.mem ∧ (∀ b, t.len b = s.len b) ∧ t.cfg = s.cfg

/-- R127: an accepted command completes after finitely many steps unless reset intervenes: it has ended after `wait`
+ 1 steps, however long the latency; and a host that only polls meanwhile sees no fault. The latency in steps is the
model's form (log entry 3). -/
def Obligations.AcceptedCommandsComplete : Prop :=
  (∀ s t : State, s.busy = true → HostOp.reset ∉ s.inbox → core.run (s.wait + 1) s = .next t →
      t.busy = false ∧ t.done = true) ∧
    ∀ s : State, s.busy = true → (∀ op ∈ s.inbox, ∃ n, op = .poll n) →
      ∃ t, core.run (s.wait + 1) s = .next t ∧ t.busy = false ∧ t.done = true

/-! ### The rendering of the seed -/

/-- R68: the byte string GEN hashes has one byte for each bit of the seed, in index order, 0x31 for a 1 and 0x30 for a 0,
and no other byte. -/
def Obligations.RenderIsAsciiDigits : Prop :=
  ∀ v : List Bool, (render v).length = v.length ∧
    ∀ i, i < v.length → (render v)[i]? = some (if v.getD i false then 0x31#8 else 0x30#8)
end

