-- ==== Sys2Proof/Laws/Decode.lean ====
section
/-! SUPPORT. The laws of the command word: what each field of an encoding is, and what accept can answer. -/

namespace Sys2Proof

/-- `acceptWord` in one line: it answers a command exactly when the word decodes to it and the part has it. -/
theorem acceptWord_ok_iff (p : Params) (v : Word) (i : Instr) :
    acceptWord p v = .ok i ↔ decodeWord v = .ok i ∧ i.wellFormed p = true := by
  unfold acceptWord Instr.wellFormed
  cases hd : decodeWord v with
  | error e => simp
  | ok j =>
    by_cases h1 : j.hashPresent p <;> by_cases h2 : j.extendPresent p <;>
      simp only [h1, h2, if_true, if_false, Except.ok.injEq, reduceCtorEq, false_iff, not_and, Bool.and_eq_true,
        Bool.false_eq_true]
    · exact ⟨fun h => ⟨h, h ▸ ⟨h1, h2⟩⟩, fun h => h.1⟩
    all_goals rintro rfl; simp_all

/-- The fields ENG latches name the command they came from. -/
@[simp] theorem Machine.instrOf_commandOf (i : Instr) : Machine.instrOf (Machine.commandOf i) = i := by
  cases i <;> rfl

/-- A word is its fields: RES, STRICT, XTND, HSEL, OP (R58). -/
theorem word_of_fields (v : Word) :
    v = fieldRes v ++ BitVec.ofBool (fieldStrict v) ++ BitVec.ofBool (fieldXtnd v) ++ BitVec.ofBool (fieldHsel v)
      ++ fieldOp v := by
  apply BitVec.eq_of_getLsbD_eq
  intro k hk
  simp only [BitVec.getLsbD_append, fieldRes, fieldStrict, fieldXtnd, fieldHsel, fieldOp, BitVec.getLsbD_extractLsb',
    BitVec.getLsbD_ofBool]
  by_cases h1 : k < 4
  · simp [h1]
  · by_cases h2 : k = 4
    · subst h2; simp
    · by_cases h3 : k = 5
      · subst h3; simp
      · by_cases h4 : k = 6
        · subst h4; simp
        · have e1 : ¬ k - 4 < 1 := by omega
          have e2 : ¬ k - 4 - 1 < 1 := by omega
          have e3 : ¬ k - 4 - 1 - 1 < 1 := by omega
          have e4 : 7 + (k - 4 - 1 - 1 - 1) = k := by omega
          have e5 : k - 4 - 1 - 1 - 1 < 25 := by omega
          simp [h1, e1, e2, e3, e4, e5]

/-- Two words with the same five fields are the same word. -/
theorem word_ext_fields (v w : Word) (h1 : fieldOp v = fieldOp w) (h2 : fieldHsel v = fieldHsel w)
    (h3 : fieldXtnd v = fieldXtnd w) (h4 : fieldStrict v = fieldStrict w) (h5 : fieldRes v = fieldRes w) : v = w := by
  rw [word_of_fields v, word_of_fields w, h1, h2, h3, h4, h5]

end Sys2Proof
end

