-- ==== Sys2Proof/Laws/State.lean ====
section
/-! SUPPORT. One lemma per field of State per named update, so that no proof unfolds a record update. -/

namespace Sys2Proof.Machine

variable (s : State)

/-! #### `setMem` -/

@[simp] theorem State.setMem_cfg (m : Memory) : (s.setMem m).cfg = s.cfg := rfl
@[simp] theorem State.setMem_irqEn (m : Memory) : (s.setMem m).irqEn = s.irqEn := rfl
@[simp] theorem State.setMem_done (m : Memory) : (s.setMem m).done = s.done := rfl
@[simp] theorem State.setMem_err (m : Memory) : (s.setMem m).err = s.err := rfl
@[simp] theorem State.setMem_ovr (m : Memory) : (s.setMem m).ovr = s.ovr := rfl
@[simp] theorem State.setMem_errCode (m : Memory) : (s.setMem m).errCode = s.errCode := rfl
@[simp] theorem State.setMem_seedLen (m : Memory) : (s.setMem m).seedLen = s.seedLen := rfl
@[simp] theorem State.setMem_keyLen (m : Memory) : (s.setMem m).keyLen = s.keyLen := rfl
@[simp] theorem State.setMem_msgLen (m : Memory) : (s.setMem m).msgLen = s.msgLen := rfl
@[simp] theorem State.setMem_outLen (m : Memory) : (s.setMem m).outLen = s.outLen := rfl
@[simp] theorem State.setMem_mem (m : Memory) : (s.setMem m).mem = m := rfl
@[simp] theorem State.setMem_eng (m : Memory) : (s.setMem m).eng = s.eng := rfl
@[simp] theorem State.setMem_wait (m : Memory) : (s.setMem m).wait = s.wait := rfl
@[simp] theorem State.setMem_drawn (m : Memory) : (s.setMem m).drawn = s.drawn := rfl
@[simp] theorem State.setMem_inbox (m : Memory) : (s.setMem m).inbox = s.inbox := rfl
@[simp] theorem State.setMem_names (m : Memory) : (s.setMem m).names = s.names := rfl

/-! #### `setIrqEn` -/

@[simp] theorem State.setIrqEn_cfg (b : Bool) : (s.setIrqEn b).cfg = s.cfg := rfl
@[simp] theorem State.setIrqEn_irqEn (b : Bool) : (s.setIrqEn b).irqEn = b := rfl
@[simp] theorem State.setIrqEn_done (b : Bool) : (s.setIrqEn b).done = s.done := rfl
@[simp] theorem State.setIrqEn_err (b : Bool) : (s.setIrqEn b).err = s.err := rfl
@[simp] theorem State.setIrqEn_ovr (b : Bool) : (s.setIrqEn b).ovr = s.ovr := rfl
@[simp] theorem State.setIrqEn_errCode (b : Bool) : (s.setIrqEn b).errCode = s.errCode := rfl
@[simp] theorem State.setIrqEn_seedLen (b : Bool) : (s.setIrqEn b).seedLen = s.seedLen := rfl
@[simp] theorem State.setIrqEn_keyLen (b : Bool) : (s.setIrqEn b).keyLen = s.keyLen := rfl
@[simp] theorem State.setIrqEn_msgLen (b : Bool) : (s.setIrqEn b).msgLen = s.msgLen := rfl
@[simp] theorem State.setIrqEn_outLen (b : Bool) : (s.setIrqEn b).outLen = s.outLen := rfl
@[simp] theorem State.setIrqEn_mem (b : Bool) : (s.setIrqEn b).mem = s.mem := rfl
@[simp] theorem State.setIrqEn_eng (b : Bool) : (s.setIrqEn b).eng = s.eng := rfl
@[simp] theorem State.setIrqEn_wait (b : Bool) : (s.setIrqEn b).wait = s.wait := rfl
@[simp] theorem State.setIrqEn_drawn (b : Bool) : (s.setIrqEn b).drawn = s.drawn := rfl
@[simp] theorem State.setIrqEn_inbox (b : Bool) : (s.setIrqEn b).inbox = s.inbox := rfl
@[simp] theorem State.setIrqEn_names (b : Bool) : (s.setIrqEn b).names = s.names := rfl

/-! #### `setOvr` -/

@[simp] theorem State.setOvr_cfg : (s.setOvr).cfg = s.cfg := rfl
@[simp] theorem State.setOvr_irqEn : (s.setOvr).irqEn = s.irqEn := rfl
@[simp] theorem State.setOvr_done : (s.setOvr).done = s.done := rfl
@[simp] theorem State.setOvr_err : (s.setOvr).err = s.err := rfl
@[simp] theorem State.setOvr_ovr : (s.setOvr).ovr = true := rfl
@[simp] theorem State.setOvr_errCode : (s.setOvr).errCode = s.errCode := rfl
@[simp] theorem State.setOvr_seedLen : (s.setOvr).seedLen = s.seedLen := rfl
@[simp] theorem State.setOvr_keyLen : (s.setOvr).keyLen = s.keyLen := rfl
@[simp] theorem State.setOvr_msgLen : (s.setOvr).msgLen = s.msgLen := rfl
@[simp] theorem State.setOvr_outLen : (s.setOvr).outLen = s.outLen := rfl
@[simp] theorem State.setOvr_mem : (s.setOvr).mem = s.mem := rfl
@[simp] theorem State.setOvr_eng : (s.setOvr).eng = s.eng := rfl
@[simp] theorem State.setOvr_wait : (s.setOvr).wait = s.wait := rfl
@[simp] theorem State.setOvr_drawn : (s.setOvr).drawn = s.drawn := rfl
@[simp] theorem State.setOvr_inbox : (s.setOvr).inbox = s.inbox := rfl
@[simp] theorem State.setOvr_names : (s.setOvr).names = s.names := rfl

/-! #### `draw` -/

@[simp] theorem State.draw_cfg : (s.draw).cfg = s.cfg := rfl
@[simp] theorem State.draw_irqEn : (s.draw).irqEn = s.irqEn := rfl
@[simp] theorem State.draw_done : (s.draw).done = s.done := rfl
@[simp] theorem State.draw_err : (s.draw).err = s.err := rfl
@[simp] theorem State.draw_ovr : (s.draw).ovr = s.ovr := rfl
@[simp] theorem State.draw_errCode : (s.draw).errCode = s.errCode := rfl
@[simp] theorem State.draw_seedLen : (s.draw).seedLen = s.seedLen := rfl
@[simp] theorem State.draw_keyLen : (s.draw).keyLen = s.keyLen := rfl
@[simp] theorem State.draw_msgLen : (s.draw).msgLen = s.msgLen := rfl
@[simp] theorem State.draw_outLen : (s.draw).outLen = s.outLen := rfl
@[simp] theorem State.draw_mem : (s.draw).mem = s.mem := rfl
@[simp] theorem State.draw_eng : (s.draw).eng = s.eng := rfl
@[simp] theorem State.draw_wait : (s.draw).wait = s.wait := rfl
@[simp] theorem State.draw_drawn : (s.draw).drawn = s.drawn + 1 := rfl
@[simp] theorem State.draw_inbox : (s.draw).inbox = s.inbox := rfl
@[simp] theorem State.draw_names : (s.draw).names = s.names := rfl

/-! #### `tick` -/

@[simp] theorem State.tick_cfg : (s.tick).cfg = s.cfg := rfl
@[simp] theorem State.tick_irqEn : (s.tick).irqEn = s.irqEn := rfl
@[simp] theorem State.tick_done : (s.tick).done = s.done := rfl
@[simp] theorem State.tick_err : (s.tick).err = s.err := rfl
@[simp] theorem State.tick_ovr : (s.tick).ovr = s.ovr := rfl
@[simp] theorem State.tick_errCode : (s.tick).errCode = s.errCode := rfl
@[simp] theorem State.tick_seedLen : (s.tick).seedLen = s.seedLen := rfl
@[simp] theorem State.tick_keyLen : (s.tick).keyLen = s.keyLen := rfl
@[simp] theorem State.tick_msgLen : (s.tick).msgLen = s.msgLen := rfl
@[simp] theorem State.tick_outLen : (s.tick).outLen = s.outLen := rfl
@[simp] theorem State.tick_mem : (s.tick).mem = s.mem := rfl
@[simp] theorem State.tick_eng : (s.tick).eng = s.eng := rfl
@[simp] theorem State.tick_wait : (s.tick).wait = s.wait - 1 := rfl
@[simp] theorem State.tick_drawn : (s.tick).drawn = s.drawn := rfl
@[simp] theorem State.tick_inbox : (s.tick).inbox = s.inbox := rfl
@[simp] theorem State.tick_names : (s.tick).names = s.names := rfl

/-! #### `setInbox` -/

@[simp] theorem State.setInbox_cfg (l : List HostOp) : (s.setInbox l).cfg = s.cfg := rfl
@[simp] theorem State.setInbox_irqEn (l : List HostOp) : (s.setInbox l).irqEn = s.irqEn := rfl
@[simp] theorem State.setInbox_done (l : List HostOp) : (s.setInbox l).done = s.done := rfl
@[simp] theorem State.setInbox_err (l : List HostOp) : (s.setInbox l).err = s.err := rfl
@[simp] theorem State.setInbox_ovr (l : List HostOp) : (s.setInbox l).ovr = s.ovr := rfl
@[simp] theorem State.setInbox_errCode (l : List HostOp) : (s.setInbox l).errCode = s.errCode := rfl
@[simp] theorem State.setInbox_seedLen (l : List HostOp) : (s.setInbox l).seedLen = s.seedLen := rfl
@[simp] theorem State.setInbox_keyLen (l : List HostOp) : (s.setInbox l).keyLen = s.keyLen := rfl
@[simp] theorem State.setInbox_msgLen (l : List HostOp) : (s.setInbox l).msgLen = s.msgLen := rfl
@[simp] theorem State.setInbox_outLen (l : List HostOp) : (s.setInbox l).outLen = s.outLen := rfl
@[simp] theorem State.setInbox_mem (l : List HostOp) : (s.setInbox l).mem = s.mem := rfl
@[simp] theorem State.setInbox_eng (l : List HostOp) : (s.setInbox l).eng = s.eng := rfl
@[simp] theorem State.setInbox_wait (l : List HostOp) : (s.setInbox l).wait = s.wait := rfl
@[simp] theorem State.setInbox_drawn (l : List HostOp) : (s.setInbox l).drawn = s.drawn := rfl
@[simp] theorem State.setInbox_inbox (l : List HostOp) : (s.setInbox l).inbox = l := rfl
@[simp] theorem State.setInbox_names (l : List HostOp) : (s.setInbox l).names = s.names := rfl

/-! #### `bind` -/

@[simp] theorem State.bind_cfg (n : Nat) (v : Word) : (s.bind n v).cfg = s.cfg := rfl
@[simp] theorem State.bind_irqEn (n : Nat) (v : Word) : (s.bind n v).irqEn = s.irqEn := rfl
@[simp] theorem State.bind_done (n : Nat) (v : Word) : (s.bind n v).done = s.done := rfl
@[simp] theorem State.bind_err (n : Nat) (v : Word) : (s.bind n v).err = s.err := rfl
@[simp] theorem State.bind_ovr (n : Nat) (v : Word) : (s.bind n v).ovr = s.ovr := rfl
@[simp] theorem State.bind_errCode (n : Nat) (v : Word) : (s.bind n v).errCode = s.errCode := rfl
@[simp] theorem State.bind_seedLen (n : Nat) (v : Word) : (s.bind n v).seedLen = s.seedLen := rfl
@[simp] theorem State.bind_keyLen (n : Nat) (v : Word) : (s.bind n v).keyLen = s.keyLen := rfl
@[simp] theorem State.bind_msgLen (n : Nat) (v : Word) : (s.bind n v).msgLen = s.msgLen := rfl
@[simp] theorem State.bind_outLen (n : Nat) (v : Word) : (s.bind n v).outLen = s.outLen := rfl
@[simp] theorem State.bind_mem (n : Nat) (v : Word) : (s.bind n v).mem = s.mem := rfl
@[simp] theorem State.bind_eng (n : Nat) (v : Word) : (s.bind n v).eng = s.eng := rfl
@[simp] theorem State.bind_wait (n : Nat) (v : Word) : (s.bind n v).wait = s.wait := rfl
@[simp] theorem State.bind_drawn (n : Nat) (v : Word) : (s.bind n v).drawn = s.drawn := rfl
@[simp] theorem State.bind_inbox (n : Nat) (v : Word) : (s.bind n v).inbox = s.inbox := rfl
@[simp] theorem State.bind_names (n : Nat) (v : Word) : (s.bind n v).names = (n, v) :: s.names.filter (fun c => c.1 != n) := rfl

/-! #### `succeed` -/

@[simp] theorem State.succeed_cfg : (s.succeed).cfg = s.cfg := rfl
@[simp] theorem State.succeed_irqEn : (s.succeed).irqEn = s.irqEn := rfl
@[simp] theorem State.succeed_done : (s.succeed).done = true := rfl
@[simp] theorem State.succeed_err : (s.succeed).err = false := rfl
@[simp] theorem State.succeed_ovr : (s.succeed).ovr = s.ovr := rfl
@[simp] theorem State.succeed_errCode : (s.succeed).errCode = 0 := rfl
@[simp] theorem State.succeed_seedLen : (s.succeed).seedLen = s.seedLen := rfl
@[simp] theorem State.succeed_keyLen : (s.succeed).keyLen = s.keyLen := rfl
@[simp] theorem State.succeed_msgLen : (s.succeed).msgLen = s.msgLen := rfl
@[simp] theorem State.succeed_outLen : (s.succeed).outLen = s.outLen := rfl
@[simp] theorem State.succeed_mem : (s.succeed).mem = s.mem := rfl
@[simp] theorem State.succeed_eng : (s.succeed).eng = .idle := rfl
@[simp] theorem State.succeed_wait : (s.succeed).wait = 0 := rfl
@[simp] theorem State.succeed_drawn : (s.succeed).drawn = s.drawn := rfl
@[simp] theorem State.succeed_inbox : (s.succeed).inbox = s.inbox := rfl
@[simp] theorem State.succeed_names : (s.succeed).names = s.names := rfl

/-! #### `raiseError` -/

@[simp] theorem State.raiseError_cfg (e : ErrorCode) : (s.raiseError e).cfg = s.cfg := rfl
@[simp] theorem State.raiseError_irqEn (e : ErrorCode) : (s.raiseError e).irqEn = s.irqEn := rfl
@[simp] theorem State.raiseError_done (e : ErrorCode) : (s.raiseError e).done = true := rfl
@[simp] theorem State.raiseError_err (e : ErrorCode) : (s.raiseError e).err = true := rfl
@[simp] theorem State.raiseError_ovr (e : ErrorCode) : (s.raiseError e).ovr = s.ovr := rfl
@[simp] theorem State.raiseError_errCode (e : ErrorCode) : (s.raiseError e).errCode = e.code := rfl
@[simp] theorem State.raiseError_seedLen (e : ErrorCode) : (s.raiseError e).seedLen = s.seedLen := rfl
@[simp] theorem State.raiseError_keyLen (e : ErrorCode) : (s.raiseError e).keyLen = s.keyLen := rfl
@[simp] theorem State.raiseError_msgLen (e : ErrorCode) : (s.raiseError e).msgLen = s.msgLen := rfl
@[simp] theorem State.raiseError_outLen (e : ErrorCode) : (s.raiseError e).outLen = s.outLen := rfl
@[simp] theorem State.raiseError_mem (e : ErrorCode) : (s.raiseError e).mem = s.mem := rfl
@[simp] theorem State.raiseError_eng (e : ErrorCode) : (s.raiseError e).eng = .idle := rfl
@[simp] theorem State.raiseError_wait (e : ErrorCode) : (s.raiseError e).wait = 0 := rfl
@[simp] theorem State.raiseError_drawn (e : ErrorCode) : (s.raiseError e).drawn = s.drawn := rfl
@[simp] theorem State.raiseError_inbox (e : ErrorCode) : (s.raiseError e).inbox = s.inbox := rfl
@[simp] theorem State.raiseError_names (e : ErrorCode) : (s.raiseError e).names = s.names := rfl

/-! #### `reportIllegal` -/

@[simp] theorem State.reportIllegal_cfg : (s.reportIllegal).cfg = s.cfg := rfl
@[simp] theorem State.reportIllegal_irqEn : (s.reportIllegal).irqEn = s.irqEn := rfl
@[simp] theorem State.reportIllegal_done : (s.reportIllegal).done = true := rfl
@[simp] theorem State.reportIllegal_err : (s.reportIllegal).err = true := rfl
@[simp] theorem State.reportIllegal_ovr : (s.reportIllegal).ovr = false := rfl
@[simp] theorem State.reportIllegal_errCode : (s.reportIllegal).errCode = 3 := rfl
@[simp] theorem State.reportIllegal_seedLen : (s.reportIllegal).seedLen = s.seedLen := rfl
@[simp] theorem State.reportIllegal_keyLen : (s.reportIllegal).keyLen = s.keyLen := rfl
@[simp] theorem State.reportIllegal_msgLen : (s.reportIllegal).msgLen = s.msgLen := rfl
@[simp] theorem State.reportIllegal_outLen : (s.reportIllegal).outLen = s.outLen := rfl
@[simp] theorem State.reportIllegal_mem : (s.reportIllegal).mem = s.mem := rfl
@[simp] theorem State.reportIllegal_eng : (s.reportIllegal).eng = .idle := rfl
@[simp] theorem State.reportIllegal_wait : (s.reportIllegal).wait = 0 := rfl
@[simp] theorem State.reportIllegal_drawn : (s.reportIllegal).drawn = s.drawn := rfl
@[simp] theorem State.reportIllegal_inbox : (s.reportIllegal).inbox = s.inbox := rfl
@[simp] theorem State.reportIllegal_names : (s.reportIllegal).names = s.names := rfl

/-! #### `acknowledge` -/

@[simp] theorem State.acknowledge_cfg (v : Word) : (s.acknowledge v).cfg = s.cfg := rfl
@[simp] theorem State.acknowledge_irqEn (v : Word) : (s.acknowledge v).irqEn = s.irqEn := rfl
@[simp] theorem State.acknowledge_done (v : Word) : (s.acknowledge v).done = (s.done && !v.getLsbD 1) := rfl
@[simp] theorem State.acknowledge_err (v : Word) : (s.acknowledge v).err = (s.err && !v.getLsbD 2) := rfl
@[simp] theorem State.acknowledge_ovr (v : Word) : (s.acknowledge v).ovr = (s.ovr && !v.getLsbD 3) := rfl
@[simp] theorem State.acknowledge_errCode (v : Word) : (s.acknowledge v).errCode = (if v.getLsbD 2 then 0 else s.errCode) := rfl
@[simp] theorem State.acknowledge_seedLen (v : Word) : (s.acknowledge v).seedLen = s.seedLen := rfl
@[simp] theorem State.acknowledge_keyLen (v : Word) : (s.acknowledge v).keyLen = s.keyLen := rfl
@[simp] theorem State.acknowledge_msgLen (v : Word) : (s.acknowledge v).msgLen = s.msgLen := rfl
@[simp] theorem State.acknowledge_outLen (v : Word) : (s.acknowledge v).outLen = s.outLen := rfl
@[simp] theorem State.acknowledge_mem (v : Word) : (s.acknowledge v).mem = s.mem := rfl
@[simp] theorem State.acknowledge_eng (v : Word) : (s.acknowledge v).eng = s.eng := rfl
@[simp] theorem State.acknowledge_wait (v : Word) : (s.acknowledge v).wait = s.wait := rfl
@[simp] theorem State.acknowledge_drawn (v : Word) : (s.acknowledge v).drawn = s.drawn := rfl
@[simp] theorem State.acknowledge_inbox (v : Word) : (s.acknowledge v).inbox = s.inbox := rfl
@[simp] theorem State.acknowledge_names (v : Word) : (s.acknowledge v).names = s.names := rfl

/-! #### `accept` -/

@[simp] theorem State.accept_cfg (i : Instr) (l : Nat) : (s.accept i l).cfg = s.cfg := rfl
@[simp] theorem State.accept_irqEn (i : Instr) (l : Nat) : (s.accept i l).irqEn = s.irqEn := rfl
@[simp] theorem State.accept_done (i : Instr) (l : Nat) : (s.accept i l).done = false := rfl
@[simp] theorem State.accept_err (i : Instr) (l : Nat) : (s.accept i l).err = false := rfl
@[simp] theorem State.accept_ovr (i : Instr) (l : Nat) : (s.accept i l).ovr = false := rfl
@[simp] theorem State.accept_errCode (i : Instr) (l : Nat) : (s.accept i l).errCode = 0 := rfl
@[simp] theorem State.accept_seedLen (i : Instr) (l : Nat) : (s.accept i l).seedLen = s.seedLen := rfl
@[simp] theorem State.accept_keyLen (i : Instr) (l : Nat) : (s.accept i l).keyLen = s.keyLen := rfl
@[simp] theorem State.accept_msgLen (i : Instr) (l : Nat) : (s.accept i l).msgLen = s.msgLen := rfl
@[simp] theorem State.accept_outLen (i : Instr) (l : Nat) : (s.accept i l).outLen = s.outLen := rfl
@[simp] theorem State.accept_mem (i : Instr) (l : Nat) : (s.accept i l).mem = s.mem := rfl
@[simp] theorem State.accept_eng (i : Instr) (l : Nat) : (s.accept i l).eng = .busy (commandOf i) := rfl
@[simp] theorem State.accept_wait (i : Instr) (l : Nat) : (s.accept i l).wait = l := rfl
@[simp] theorem State.accept_drawn (i : Instr) (l : Nat) : (s.accept i l).drawn = s.drawn := rfl
@[simp] theorem State.accept_inbox (i : Instr) (l : Nat) : (s.accept i l).inbox = s.inbox := rfl
@[simp] theorem State.accept_names (i : Instr) (l : Nat) : (s.accept i l).names = s.names := rfl

/-! #### `resetBlock` -/

@[simp] theorem State.resetBlock_cfg : (s.resetBlock).cfg = s.cfg := rfl
@[simp] theorem State.resetBlock_irqEn : (s.resetBlock).irqEn = false := rfl
@[simp] theorem State.resetBlock_done : (s.resetBlock).done = false := rfl
@[simp] theorem State.resetBlock_err : (s.resetBlock).err = false := rfl
@[simp] theorem State.resetBlock_ovr : (s.resetBlock).ovr = false := rfl
@[simp] theorem State.resetBlock_errCode : (s.resetBlock).errCode = 0 := rfl
@[simp] theorem State.resetBlock_seedLen : (s.resetBlock).seedLen = 0 := rfl
@[simp] theorem State.resetBlock_keyLen : (s.resetBlock).keyLen = 0 := rfl
@[simp] theorem State.resetBlock_msgLen : (s.resetBlock).msgLen = 0 := rfl
@[simp] theorem State.resetBlock_outLen : (s.resetBlock).outLen = 0 := rfl
@[simp] theorem State.resetBlock_mem : (s.resetBlock).mem = [] := rfl
@[simp] theorem State.resetBlock_eng : (s.resetBlock).eng = .idle := rfl
@[simp] theorem State.resetBlock_wait : (s.resetBlock).wait = 0 := rfl
@[simp] theorem State.resetBlock_drawn : (s.resetBlock).drawn = s.drawn := rfl
@[simp] theorem State.resetBlock_inbox : (s.resetBlock).inbox = s.inbox := rfl
@[simp] theorem State.resetBlock_names : (s.resetBlock).names = s.names := rfl

/-! #### `setLen` -/

@[simp] theorem State.setLen_cfg (b : Buf) (v : BitVec 16) : (s.setLen b v).cfg = s.cfg := by cases b <;> rfl
@[simp] theorem State.setLen_irqEn (b : Buf) (v : BitVec 16) : (s.setLen b v).irqEn = s.irqEn := by cases b <;> rfl
@[simp] theorem State.setLen_done (b : Buf) (v : BitVec 16) : (s.setLen b v).done = s.done := by cases b <;> rfl
@[simp] theorem State.setLen_err (b : Buf) (v : BitVec 16) : (s.setLen b v).err = s.err := by cases b <;> rfl
@[simp] theorem State.setLen_ovr (b : Buf) (v : BitVec 16) : (s.setLen b v).ovr = s.ovr := by cases b <;> rfl
@[simp] theorem State.setLen_errCode (b : Buf) (v : BitVec 16) : (s.setLen b v).errCode = s.errCode := by cases b <;> rfl
@[simp] theorem State.setLen_seedLen (b : Buf) (v : BitVec 16) : (s.setLen b v).seedLen = (if b = .seed then v else s.seedLen) := by cases b <;> rfl
@[simp] theorem State.setLen_keyLen (b : Buf) (v : BitVec 16) : (s.setLen b v).keyLen = (if b = .key then v else s.keyLen) := by cases b <;> rfl
@[simp] theorem State.setLen_msgLen (b : Buf) (v : BitVec 16) : (s.setLen b v).msgLen = (if b = .msg then v else s.msgLen) := by cases b <;> rfl
@[simp] theorem State.setLen_outLen (b : Buf) (v : BitVec 16) : (s.setLen b v).outLen = (if b = .out then v else s.outLen) := by cases b <;> rfl
@[simp] theorem State.setLen_mem (b : Buf) (v : BitVec 16) : (s.setLen b v).mem = s.mem := by cases b <;> rfl
@[simp] theorem State.setLen_eng (b : Buf) (v : BitVec 16) : (s.setLen b v).eng = s.eng := by cases b <;> rfl
@[simp] theorem State.setLen_wait (b : Buf) (v : BitVec 16) : (s.setLen b v).wait = s.wait := by cases b <;> rfl
@[simp] theorem State.setLen_drawn (b : Buf) (v : BitVec 16) : (s.setLen b v).drawn = s.drawn := by cases b <;> rfl
@[simp] theorem State.setLen_inbox (b : Buf) (v : BitVec 16) : (s.setLen b v).inbox = s.inbox := by cases b <;> rfl
@[simp] theorem State.setLen_names (b : Buf) (v : BitVec 16) : (s.setLen b v).names = s.names := by cases b <;> rfl

/-! #### `len` and `busy` -/

@[simp] theorem State.len_seed : s.len .seed = s.seedLen := rfl
@[simp] theorem State.len_key : s.len .key = s.keyLen := rfl
@[simp] theorem State.len_msg : s.len .msg = s.msgLen := rfl
@[simp] theorem State.len_out : s.len .out = s.outLen := rfl

theorem State.setLen_len (b c : Buf) (v : BitVec 16) : (s.setLen b v).len c = if c = b then v else s.len c := by
  cases b <;> cases c <;> rfl

theorem State.busy_iff : s.busy = true ↔ ∃ c, s.eng = .busy c := by
  unfold State.busy; cases s.eng <;> simp

theorem State.not_busy_iff : s.busy = false ↔ s.eng = .idle := by
  unfold State.busy; cases s.eng <;> simp

/-- Updates that leave ENG alone leave BUSY alone. -/
theorem State.busy_congr (t : State) (h : t.eng = s.eng) : t.busy = s.busy := by
  unfold State.busy; rw [h]

/-- Updates that leave the four length fields alone leave every length register alone. -/
theorem State.len_congr (t : State) (h1 : t.seedLen = s.seedLen) (h2 : t.keyLen = s.keyLen)
    (h3 : t.msgLen = s.msgLen) (h4 : t.outLen = s.outLen) (b : Buf) : t.len b = s.len b := by
  cases b <;> assumption

end Sys2Proof.Machine
end

