-- ==== Sys2Proof/Laws/Memory.lean ====
section
/-! SUPPORT. The laws of window memory: read after write, and that every memory operation keeps the canonical form. -/

namespace Sys2Proof.Machine

/-! ### Reading after storing one byte -/

@[simp] theorem Memory.read_nil (a : Nat) : Memory.read [] a = Memory.unlisted := rfl

theorem Memory.read_erase (m : Memory) (a x : Nat) :
    (m.erase a).read x = if x = a then Memory.unlisted else m.read x := by
  induction m with
  | nil => simp [Memory.erase, Memory.read]
  | cons c m ih =>
    obtain ⟨b, v⟩ := c
    unfold Memory.erase at ih ⊢
    by_cases hb : b = a
    · subst hb
      simp only [List.filter_cons, bne_self_eq_false, Bool.false_eq_true, if_false, ih, Memory.read]
      split <;> rfl
    · have hne : (b != a) = true := by simpa using hb
      simp only [List.filter_cons, hne, if_true, Memory.read, ih]
      by_cases hx : x = b
      · subst hx; simp [hb]
      · simp [hx]

theorem Memory.read_insert (m : Memory) (a x : Nat) (v : Byte) (h : ∀ c ∈ m, c.1 ≠ a) :
    (m.insert a v).read x = if x = a then v else m.read x := by
  induction m with
  | nil => simp [Memory.insert, Memory.read]
  | cons c m ih =>
    obtain ⟨b, w⟩ := c
    have hb : b ≠ a := h (b, w) (by simp)
    have ih := ih (fun c hc => h c (by simp [hc]))
    unfold Memory.insert
    split
    · simp [Memory.read]
    · simp only [Memory.read, ih]
      by_cases hx : x = b
      · subst hx; simp [hb]
      · simp [hx]

theorem Memory.erase_ne (m : Memory) (a : Nat) : ∀ c ∈ m.erase a, c.1 ≠ a := by
  intro c hc
  simpa using (List.mem_filter.mp hc).2

/-- A read after a write: the byte written at its offset, the byte that was there everywhere else. -/
theorem Memory.read_write (m : Memory) (a x : Nat) (v : Byte) :
    (m.write a v).read x = if x = a then v else m.read x := by
  unfold Memory.write
  split
  · next h => rw [Memory.read_erase, h]
  · rw [Memory.read_insert _ _ _ _ (Memory.erase_ne m a), Memory.read_erase]
    by_cases hx : x = a <;> simp [hx]

/-- A read after storing bytes at rising offsets. -/
theorem Memory.read_writeBytes (bs : List Byte) : ∀ (m : Memory) (a x : Nat),
    (m.writeBytes a bs).read x = if a ≤ x ∧ x < a + bs.length then bs.getD (x - a) 0 else m.read x := by
  induction bs with
  | nil =>
    intro m a x
    simp [Memory.writeBytes]
  | cons b bs ih =>
    intro m a x
    rw [Memory.writeBytes, ih, Memory.read_write]
    by_cases h1 : x = a
    · subst h1; simp
    · by_cases h2 : a + 1 ≤ x ∧ x < a + 1 + bs.length
      · have e : x - a = (x - (a + 1)) + 1 := by omega
        have h3 : a ≤ x ∧ x < a + (b :: bs).length := by simp; omega
        rw [if_pos h2, if_pos h3, e, List.getD_cons_succ]
      · have h3 : ¬ (a ≤ x ∧ x < a + (b :: bs).length) := by simp; omega
        rw [if_neg h2, if_neg h3, if_neg h1]

/-! ### The canonical form -/

@[simp] theorem Memory.wf_nil : Memory.wf [] = true := rfl

theorem Memory.wf_cons (a : Nat) (v : Byte) (m : Memory) :
    Memory.wf ((a, v) :: m) = true ↔ v ≠ Memory.unlisted ∧ (∀ c ∈ m, a < c.1) ∧ Memory.wf m = true := by
  simp [Memory.wf, List.all_eq_true, and_assoc]

theorem Memory.wf_erase (m : Memory) (a : Nat) (h : m.wf = true) : (m.erase a).wf = true := by
  induction m with
  | nil => rfl
  | cons c m ih =>
    obtain ⟨b, v⟩ := c
    rw [Memory.wf_cons] at h
    unfold Memory.erase at ih ⊢
    rw [List.filter_cons]
    split
    · rw [Memory.wf_cons]
      exact ⟨h.1, fun c hc => h.2.1 c (List.mem_filter.mp hc).1, ih h.2.2⟩
    · exact ih h.2.2

theorem Memory.mem_insert (m : Memory) (a : Nat) (v : Byte) (c : Host.Cell) :
    c ∈ m.insert a v → c = (a, v) ∨ c ∈ m := by
  induction m with
  | nil => simp [Memory.insert]
  | cons d m ih =>
    obtain ⟨b, w⟩ := d
    unfold Memory.insert
    split
    · simp
    · simp only [List.mem_cons]
      rintro (h | h)
      · exact .inr (.inl h)
      · exact (ih h).imp id .inr

theorem Memory.wf_insert (m : Memory) (a : Nat) (v : Byte) (h : m.wf = true) (hv : v ≠ Memory.unlisted)
    (ha : ∀ c ∈ m, c.1 ≠ a) : (m.insert a v).wf = true := by
  induction m with
  | nil => simp [Memory.insert, Memory.wf_cons, hv]
  | cons d m ih =>
    obtain ⟨b, w⟩ := d
    have hd := h
    rw [Memory.wf_cons] at h
    have hb : b ≠ a := ha (b, w) (by simp)
    unfold Memory.insert
    split
    · next hlt =>
      rw [Memory.wf_cons]
      refine ⟨hv, ?_, hd⟩
      intro c hc
      rcases List.mem_cons.mp hc with rfl | hc
      · exact hlt
      · exact lt_trans hlt (h.2.1 c hc)
    · next hlt =>
      rw [Memory.wf_cons]
      refine ⟨h.1, ?_, ih h.2.2 (fun c hc => ha c (by simp [hc]))⟩
      intro c hc
      rcases Memory.mem_insert m a v c hc with rfl | hc
      · show b < a; omega
      · exact h.2.1 c hc

/-- Storing a byte keeps the canonical form. -/
theorem Memory.wf_write (m : Memory) (a : Nat) (v : Byte) (h : m.wf = true) : (m.write a v).wf = true := by
  unfold Memory.write
  split
  · exact Memory.wf_erase m a h
  · next hv => exact Memory.wf_insert _ a v (Memory.wf_erase m a h) hv (Memory.erase_ne m a)

/-- Storing bytes keeps the canonical form. -/
theorem Memory.wf_writeBytes (bs : List Byte) : ∀ (m : Memory) (a : Nat), m.wf = true →
    (m.writeBytes a bs).wf = true := by
  induction bs with
  | nil => intro m a h; exact h
  | cons b bs ih => intro m a h; exact ih _ _ (Memory.wf_write m a b h)

/-- Storing a word keeps the canonical form. -/
theorem Memory.wf_writeWord (m : Memory) (a : Nat) (v : Word) (h : m.wf = true) :
    (m.writeWord a v).wf = true := Memory.wf_writeBytes _ m a h

/-- WriteVec keeps the canonical form. -/
theorem Memory.wf_writeVec (p : Params) (m : Memory) (b : Buf) (v : List Bool) (h : m.wf = true) :
    (m.writeVec p b v).wf = true := Memory.wf_writeBytes _ m _ h

/-- ClearVec keeps the canonical form. -/
theorem Memory.wf_clearVec (p : Params) (m : Memory) (b : Buf) (h : m.wf = true) :
    (m.clearVec p b).wf = true := Memory.wf_writeVec p m b [] h

/-! ### Which offsets are listed -/

theorem Memory.mem_write (m : Memory) (a : Nat) (v : Byte) (c : Host.Cell) :
    c ∈ m.write a v → c.1 = a ∨ c ∈ m := by
  unfold Memory.write
  split
  · intro h; exact .inr (List.mem_filter.mp h).1
  · intro h
    rcases Memory.mem_insert _ a v c h with rfl | h
    · exact .inl rfl
    · exact .inr (List.mem_filter.mp h).1

/-- Storing bytes lists no offset outside the stored range. -/
theorem Memory.mem_writeBytes (bs : List Byte) : ∀ (m : Memory) (a : Nat) (c : Host.Cell),
    c ∈ m.writeBytes a bs → (a ≤ c.1 ∧ c.1 < a + bs.length) ∨ c ∈ m := by
  induction bs with
  | nil => intro m a c h; exact .inr h
  | cons b bs ih =>
    intro m a c h
    rcases ih _ _ _ h with h | h
    · left; simp only [List.length_cons]; omega
    · rcases Memory.mem_write m a b c h with h | h
      · left; simp only [List.length_cons]; omega
      · exact .inr h

/-! ### Words -/

@[simp] theorem bytesOfWord_length (v : Word) : (bytesOfWord v).length = 4 := rfl

theorem wordOfBytes_bytesOfWord (v : Word) :
    wordOfBytes (v.extractLsb' 0 8) (v.extractLsb' 8 8) (v.extractLsb' 16 8) (v.extractLsb' 24 8) = v := by
  apply BitVec.eq_of_getLsbD_eq
  intro i hi
  simp only [wordOfBytes, BitVec.getLsbD_append, BitVec.getLsbD_extractLsb']
  by_cases h1 : i < 8
  · simp [h1]
  · by_cases h2 : i < 16
    · have h3 : i - 8 < 8 := by omega
      have e : 8 + (i - 8) = i := by omega
      simp [h1, h3, e]
    · by_cases h3 : i < 24
      · have h4 : ¬ i - 8 < 8 := by omega
        have h5 : i - 8 - 8 < 8 := by omega
        have e : 16 + (i - 8 - 8) = i := by omega
        simp [h1, h4, h5, e]
      · have h4 : ¬ i - 8 < 8 := by omega
        have h5 : ¬ i - 8 - 8 < 8 := by omega
        have h6 : i - 8 - 8 - 8 < 8 := by omega
        have e : 24 + (i - 8 - 8 - 8) = i := by omega
        simp [h1, h4, h5, h6, e]

theorem Memory.word_writeWord_same (m : Memory) (a : Nat) (v : Word) : (m.writeWord a v).word a = v := by
  have h : ∀ k < 4, (m.writeWord a v).read (a + k) = (bytesOfWord v).getD k 0 := by
    intro k hk
    unfold Memory.writeWord
    rw [Memory.read_writeBytes, if_pos (by simp; omega)]
    congr 1; omega
  have h0 := h 0 (by omega)
  rw [Nat.add_zero] at h0
  unfold Memory.word
  rw [h0, h 1 (by omega), h 2 (by omega), h 3 (by omega)]
  exact wordOfBytes_bytesOfWord v

theorem Memory.word_writeWord_other (m : Memory) (a x : Nat) (v : Word) (h : x + 4 ≤ a ∨ a + 4 ≤ x) :
    (m.writeWord a v).word x = m.word x := by
  have h' : ∀ k < 4, (m.writeWord a v).read (x + k) = m.read (x + k) := by
    intro k hk
    unfold Memory.writeWord
    rw [Memory.read_writeBytes, if_neg (by simp; omega)]
  have h0 := h' 0 (by omega)
  rw [Nat.add_zero] at h0
  unfold Memory.word
  rw [h0, h' 1 (by omega), h' 2 (by omega), h' 3 (by omega)]

end Sys2Proof.Machine
end

