-- ==== Sys2Proof/Laws/Vector.lean ====
section
/-! SUPPORT. The laws of bit vectors in buffers: packing, WriteVec (20_memory.md R57), and which bytes of the window a
buffer owns. -/

namespace Sys2Proof

/-! ### The parameters' bounds (R8) -/

theorem Params.maxSeedWords_bounds (p : Params) : 2 ≤ p.maxSeedWords ∧ p.maxSeedWords ≤ 16 := by
  have := p.seedSize.isLt
  unfold Params.maxSeedWords
  omega

theorem Params.maxSeed_bounds (p : Params) : 64 ≤ p.maxSeed ∧ p.maxSeed ≤ 512 := by
  have := p.maxSeedWords_bounds
  unfold Params.maxSeed
  omega

theorem Params.maxKey_eq (p : Params) : p.maxKey = 4 * p.maxSeed := rfl

theorem Params.maxMsg_eq (p : Params) : p.maxMsg = 4 * p.maxSeed := rfl

end Sys2Proof

namespace Sys2Proof.Machine

/-! ### Sizes -/

/-- A buffer is a whole number of words, at least two and at most 64 (R8, R45). -/
theorem Buf.size_words (b : Buf) (p : Params) : ∃ k, b.size p = 32 * k ∧ 2 ≤ k ∧ k ≤ 64 := by
  have h := Params.maxSeedWords_bounds p
  cases b
  · exact ⟨p.maxSeedWords, rfl, by omega, by omega⟩
  all_goals
    refine ⟨4 * p.maxSeedWords, ?_, by omega, by omega⟩
    simp only [Buf.size, Params.maxMsg, Params.maxKey, Params.maxSeed]
    omega

theorem Buf.size_le (b : Buf) (p : Params) : b.size p ≤ 2048 := by
  obtain ⟨k, h, _, _⟩ := b.size_words p
  omega

theorem Buf.size_div (b : Buf) (p : Params) : 8 * (b.size p / 8) = b.size p := by
  obtain ⟨k, h, _, _⟩ := b.size_words p
  omega

/-- The bytes of two buffers do not meet: bases are 0x100 apart, and no buffer is larger. -/
theorem Buf.base_apart (b c : Buf) (h : b ≠ c) : b.base + 256 ≤ c.base ∨ c.base + 256 ≤ b.base := by
  cases b <;> cases c <;> simp_all [Buf.base]

/-! ### Packing -/

theorem natOfBits_testBit (v : List Bool) : ∀ i, (natOfBits v).testBit i = v.getD i false := by
  induction v with
  | nil => intro i; simp [natOfBits]
  | cons b v ih =>
    intro i
    cases i with
    | zero => cases b <;> simp [natOfBits, Nat.testBit_zero, Nat.add_mod]
    | succ i =>
      have : (b.toNat + 2 * natOfBits v) / 2 = natOfBits v := by cases b <;> simp; omega
      rw [natOfBits, Nat.testBit_succ, this, ih]
      simp

@[simp] theorem packBytes_length (k : Nat) : ∀ v, (packBytes k v).length = k := by
  induction k with
  | zero => intro v; rfl
  | succ k ih => intro v; simp [packBytes, ih]

/-- Byte `j` of a packed vector: bit `i` of it is element `8j + i` of the vector, and 0 beyond the vector. -/
theorem packBytes_bit (k : Nat) : ∀ (v : List Bool) (j i : Nat), j < k → i < 8 →
    ((packBytes k v).getD j 0).getLsbD i = v.getD (8 * j + i) false := by
  induction k with
  | zero => intro v j i hj; omega
  | succ k ih =>
    intro v j i hj hi
    cases j with
    | zero =>
      rw [packBytes, List.getD_cons_zero, BitVec.getLsbD_ofNat, natOfBits_testBit]
      simp [List.getD_eq_getElem?_getD, hi]
    | succ j =>
      rw [packBytes, List.getD_cons_succ, ih _ _ _ (by omega) hi]
      rw [List.getD_eq_getElem?_getD, List.getD_eq_getElem?_getD, List.getElem?_drop]
      congr 2; omega

/-! ### WriteVec -/

/-- WriteVec stores no byte outside the buffer. -/
theorem Memory.read_writeVec_other (p : Params) (m : Memory) (b : Buf) (v : List Bool) (a : Nat)
    (h : ¬ (b.base ≤ a ∧ a < b.base + b.size p / 8)) : (m.writeVec p b v).read a = m.read a := by
  unfold Memory.writeVec
  rw [Memory.read_writeBytes, packBytes_length, if_neg h]

theorem Memory.bit_of_read (m n : Memory) (b : Buf) (i : Nat)
    (h : m.read (b.base + i / 8) = n.read (b.base + i / 8)) : m.bit b i = n.bit b i := by
  unfold Memory.bit
  rw [h]

/-- WriteVec (R57): bit `i` of the buffer is element `i` of the vector, and 0 beyond it. -/
theorem Memory.bit_writeVec (p : Params) (m : Memory) (b : Buf) (v : List Bool) (i : Nat) (h : i < b.size p) :
    (m.writeVec p b v).bit b i = v.getD i false := by
  have hs := b.size_div p
  unfold Memory.bit Memory.writeVec
  rw [Memory.read_writeBytes, packBytes_length, if_pos (by omega)]
  have e : b.base + i / 8 - b.base = i / 8 := by omega
  rw [e, packBytes_bit _ _ _ _ (by omega) (by omega)]
  congr 1; omega

/-- WriteVec leaves the bits of every other buffer. -/
theorem Memory.bit_writeVec_other (p : Params) (m : Memory) (b c : Buf) (v : List Bool) (i : Nat) (hbc : c ≠ b)
    (h : i < 2048) : (m.writeVec p b v).bit c i = m.bit c i := by
  apply Memory.bit_of_read
  apply Memory.read_writeVec_other
  have h1 := Buf.base_apart b c (Ne.symm hbc)
  have h2 := b.size_le p
  omega

/-! ### Operand vectors -/

@[simp] theorem Memory.vec_length (m : Memory) (b : Buf) (n : Nat) : (m.vec b n).length = n := by
  simp [Memory.vec]

theorem Memory.vec_getD (m : Memory) (b : Buf) (n i : Nat) :
    (m.vec b n).getD i false = if i < n then m.bit b i else false := by
  unfold Memory.vec
  rw [List.getD_eq_getElem?_getD, List.getElem?_map]
  by_cases h : i < n
  · simp [h]
  · simp [h]

/-- An operand vector depends on the bits below its length only (R56). -/
theorem Memory.vec_congr (m k : Memory) (b : Buf) (n : Nat) (h : ∀ i < n, m.bit b i = k.bit b i) :
    m.vec b n = k.vec b n := by
  unfold Memory.vec
  apply List.map_congr_left
  intro i hi
  exact h i (List.mem_range.mp hi)

/-- What WriteVec wrote is what the operand vector of that length reads. -/
theorem Memory.vec_writeVec (p : Params) (m : Memory) (b : Buf) (v : List Bool) (h : v.length ≤ b.size p) :
    (m.writeVec p b v).vec b v.length = v := by
  apply List.ext_getElem
  · simp
  · intro i h1 h2
    simp only [Memory.vec, List.getElem_map, List.getElem_range]
    rw [Memory.bit_writeVec _ _ _ _ _ (by omega)]
    simp [List.getD_eq_getElem?_getD, h2]

/-- R44 as it is written: a bit of a buffer is a bit of the buffer's word. -/
theorem Memory.bit_eq_word (m : Memory) (b : Buf) (i : Nat) :
    m.bit b i = (m.word (b.base + 4 * (i / 32))).getLsbD (i % 32) := by
  have hlt : i % 32 < 32 := Nat.mod_lt _ (by omega)
  unfold Memory.bit Memory.word wordOfBytes
  simp only [BitVec.getLsbD_append]
  by_cases h1 : i % 32 < 8
  · have e : i / 8 = 4 * (i / 32) := by omega
    have e2 : i % 32 = i % 8 := by omega
    have h1' : i % 8 < 8 := by omega
    simp only [e, e2, h1', if_true]
  · by_cases h2 : i % 32 < 16
    · have e : b.base + i / 8 = b.base + 4 * (i / 32) + 1 := by omega
      have e2 : i % 32 - 8 = i % 8 := by omega
      have h3 : i % 8 < 8 := by omega
      simp only [h1, if_false, e, e2, h3, if_true]
    · by_cases h3 : i % 32 < 24
      · have e : b.base + i / 8 = b.base + 4 * (i / 32) + 2 := by omega
        have e2 : i % 32 - 8 - 8 = i % 8 := by omega
        have e3 : ¬ i % 32 - 8 < 8 := by omega
        have h4 : i % 8 < 8 := by omega
        simp only [h1, if_false, e, e2, e3, h4, if_true]
      · have e : b.base + i / 8 = b.base + 4 * (i / 32) + 3 := by omega
        have e2 : i % 32 - 8 - 8 - 8 = i % 8 := by omega
        have e3 : ¬ i % 32 - 8 < 8 := by omega
        have e4 : ¬ i % 32 - 8 - 8 < 8 := by omega
        have h4 : i % 8 < 8 := by omega
        simp only [h1, if_false, e, e2, e3, e4]

end Sys2Proof.Machine
end

