-- ==== Sys2Proof/Laws/Ops.lean ====
section
/-! SUPPORT. What the shared ends of a command do: WriteVec with its length register, the cleared destination, success
and `raise Error`. -/

namespace Sys2Proof.Machine

variable (s : State)

/-! ### `writeResult` -/

section WriteResult

variable (b : Buf) (v : List Bool) (n : Nat)

@[simp] theorem State.writeResult_cfg : (s.writeResult b v n).cfg = s.cfg := by simp [State.writeResult]
@[simp] theorem State.writeResult_irqEn : (s.writeResult b v n).irqEn = s.irqEn := by simp [State.writeResult]
@[simp] theorem State.writeResult_done : (s.writeResult b v n).done = s.done := by simp [State.writeResult]
@[simp] theorem State.writeResult_err : (s.writeResult b v n).err = s.err := by simp [State.writeResult]
@[simp] theorem State.writeResult_ovr : (s.writeResult b v n).ovr = s.ovr := by simp [State.writeResult]
@[simp] theorem State.writeResult_errCode : (s.writeResult b v n).errCode = s.errCode := by simp [State.writeResult]
@[simp] theorem State.writeResult_eng : (s.writeResult b v n).eng = s.eng := by simp [State.writeResult]
@[simp] theorem State.writeResult_wait : (s.writeResult b v n).wait = s.wait := by simp [State.writeResult]
@[simp] theorem State.writeResult_drawn : (s.writeResult b v n).drawn = s.drawn := by simp [State.writeResult]
@[simp] theorem State.writeResult_inbox : (s.writeResult b v n).inbox = s.inbox := by simp [State.writeResult]
@[simp] theorem State.writeResult_names : (s.writeResult b v n).names = s.names := by simp [State.writeResult]
@[simp] theorem State.writeResult_mem : (s.writeResult b v n).mem = s.mem.writeVec s.cfg b v := by
  simp [State.writeResult]

theorem State.writeResult_len (c : Buf) :
    (s.writeResult b v n).len c = if c = b then BitVec.ofNat 16 n else s.len c := by
  unfold State.writeResult
  rw [State.setLen_len]
  split
  · rfl
  · exact State.len_congr _ _ rfl rfl rfl rfl c

end WriteResult

/-! ### How `len` and `busy` pass through the ends of a command -/

@[simp] theorem State.succeed_len (c : Buf) : s.succeed.len c = s.len c := by cases c <;> rfl
@[simp] theorem State.raiseError_len (e : ErrorCode) (c : Buf) : (s.raiseError e).len c = s.len c := by cases c <;> rfl
@[simp] theorem State.reportIllegal_len (c : Buf) : s.reportIllegal.len c = s.len c := by cases c <;> rfl
@[simp] theorem State.acknowledge_len (v : Word) (c : Buf) : (s.acknowledge v).len c = s.len c := by cases c <;> rfl
@[simp] theorem State.accept_len (i : Instr) (l : Nat) (c : Buf) : (s.accept i l).len c = s.len c := by cases c <;> rfl
@[simp] theorem State.tick_len (c : Buf) : s.tick.len c = s.len c := by cases c <;> rfl
@[simp] theorem State.draw_len (c : Buf) : s.draw.len c = s.len c := by cases c <;> rfl
@[simp] theorem State.setOvr_len (c : Buf) : s.setOvr.len c = s.len c := by cases c <;> rfl
@[simp] theorem State.setMem_len (m : Memory) (c : Buf) : (s.setMem m).len c = s.len c := by cases c <;> rfl
@[simp] theorem State.setIrqEn_len (b : Bool) (c : Buf) : (s.setIrqEn b).len c = s.len c := by cases c <;> rfl
@[simp] theorem State.setInbox_len (l : List HostOp) (c : Buf) : (s.setInbox l).len c = s.len c := by cases c <;> rfl
@[simp] theorem State.bind_len (n : Nat) (v : Word) (c : Buf) : (s.bind n v).len c = s.len c := by cases c <;> rfl
@[simp] theorem State.resetBlock_len (c : Buf) : s.resetBlock.len c = 0 := by cases c <;> rfl

@[simp] theorem State.succeed_busy : s.succeed.busy = false := rfl
@[simp] theorem State.raiseError_busy (e : ErrorCode) : (s.raiseError e).busy = false := rfl
@[simp] theorem State.reportIllegal_busy : s.reportIllegal.busy = false := rfl
@[simp] theorem State.resetBlock_busy : s.resetBlock.busy = false := rfl
@[simp] theorem State.accept_busy (i : Instr) (l : Nat) : (s.accept i l).busy = true := rfl
@[simp] theorem State.acknowledge_busy (v : Word) : (s.acknowledge v).busy = s.busy := rfl
@[simp] theorem State.tick_busy : s.tick.busy = s.busy := rfl
@[simp] theorem State.draw_busy : s.draw.busy = s.busy := rfl
@[simp] theorem State.setOvr_busy : s.setOvr.busy = s.busy := rfl
@[simp] theorem State.setMem_busy (m : Memory) : (s.setMem m).busy = s.busy := rfl
@[simp] theorem State.setIrqEn_busy (b : Bool) : (s.setIrqEn b).busy = s.busy := rfl
@[simp] theorem State.setInbox_busy (l : List HostOp) : (s.setInbox l).busy = s.busy := rfl
@[simp] theorem State.bind_busy (n : Nat) (v : Word) : (s.bind n v).busy = s.busy := rfl
@[simp] theorem State.setLen_busy (b : Buf) (v : BitVec 16) : (s.setLen b v).busy = s.busy := by cases b <;> rfl

/-! ### The three ends of a command with a destination -/

/-- What a command that writes a result and succeeds leaves (R57, R67, R91, R95). -/
theorem State.writeResult_succeed_spec (b : Buf) (v : List Bool) (n : Nat) (hn : n < 2 ^ 16) :
    let t := (s.writeResult b v n).succeed
    (t.len b).toNat = n ∧ (∀ i, i < b.size s.cfg → t.mem.bit b i = v.getD i false) ∧
      (∀ c, c ≠ b → t.len c = s.len c) ∧
      (∀ a, ¬(b.base ≤ a ∧ a < b.base + b.size s.cfg / 8) → t.mem.read a = s.mem.read a) ∧
      (s.mem.wf = true → t.mem.wf = true) := by
  refine ⟨?_, ?_, ?_, ?_, ?_⟩
  · rw [State.succeed_len, State.writeResult_len, if_pos rfl, BitVec.toNat_ofNat, Nat.mod_eq_of_lt hn]
  · intro i hi
    rw [State.succeed_mem, State.writeResult_mem]
    exact Memory.bit_writeVec _ _ _ _ _ hi
  · intro c hc
    rw [State.succeed_len, State.writeResult_len, if_neg hc]
  · intro a ha
    rw [State.succeed_mem, State.writeResult_mem]
    exact Memory.read_writeVec_other _ _ _ _ _ ha
  · intro h
    rw [State.succeed_mem, State.writeResult_mem]
    exact Memory.wf_writeVec _ _ _ _ h

/-- What a command that fails with a destination leaves (R101, R109). -/
theorem State.failCommand_spec (b : Buf) (e : ErrorCode) :
    let t := s.failCommand b e
    t.eng = .idle ∧ t.wait = 0 ∧ t.done = true ∧ t.err = true ∧ t.errCode = e.code ∧ t.len b = 0 ∧
      (∀ i, i < b.size s.cfg → t.mem.bit b i = false) ∧ (∀ c, c ≠ b → t.len c = s.len c) ∧
      (∀ a, ¬(b.base ≤ a ∧ a < b.base + b.size s.cfg / 8) → t.mem.read a = s.mem.read a) ∧
      (s.mem.wf = true → t.mem.wf = true) := by
  refine ⟨rfl, rfl, rfl, rfl, rfl, ?_, ?_, ?_, ?_, ?_⟩
  · unfold State.failCommand State.clearDest
    rw [State.raiseError_len, State.writeResult_len, if_pos rfl]
    rfl
  · intro i hi
    unfold State.failCommand State.clearDest
    rw [State.raiseError_mem, State.writeResult_mem, Memory.bit_writeVec _ _ _ _ _ hi]
    rfl
  · intro c hc
    unfold State.failCommand State.clearDest
    rw [State.raiseError_len, State.writeResult_len, if_neg hc]
  · intro a ha
    unfold State.failCommand State.clearDest
    rw [State.raiseError_mem, State.writeResult_mem]
    exact Memory.read_writeVec_other _ _ _ _ _ ha
  · intro h
    unfold State.failCommand State.clearDest
    rw [State.raiseError_mem, State.writeResult_mem]
    exact Memory.wf_writeVec _ _ _ _ h

section FailCommand

variable (b : Buf) (e : ErrorCode)

@[simp] theorem State.failCommand_cfg : (s.failCommand b e).cfg = s.cfg := by simp [State.failCommand, State.clearDest]
@[simp] theorem State.failCommand_irqEn : (s.failCommand b e).irqEn = s.irqEn := by
  simp [State.failCommand, State.clearDest]
@[simp] theorem State.failCommand_ovr : (s.failCommand b e).ovr = s.ovr := by simp [State.failCommand, State.clearDest]
@[simp] theorem State.failCommand_drawn : (s.failCommand b e).drawn = s.drawn := by
  simp [State.failCommand, State.clearDest]
@[simp] theorem State.failCommand_inbox : (s.failCommand b e).inbox = s.inbox := by
  simp [State.failCommand, State.clearDest]
@[simp] theorem State.failCommand_names : (s.failCommand b e).names = s.names := by
  simp [State.failCommand, State.clearDest]
@[simp] theorem State.failCommand_err : (s.failCommand b e).err = true := rfl
@[simp] theorem State.failCommand_done : (s.failCommand b e).done = true := rfl
@[simp] theorem State.failCommand_errCode : (s.failCommand b e).errCode = e.code := rfl
@[simp] theorem State.failCommand_eng : (s.failCommand b e).eng = .idle := rfl
@[simp] theorem State.failCommand_wait : (s.failCommand b e).wait = 0 := rfl
@[simp] theorem State.failCommand_busy : (s.failCommand b e).busy = false := rfl
@[simp] theorem State.failCommand_mem : (s.failCommand b e).mem = s.mem.writeVec s.cfg b [] := by
  simp [State.failCommand, State.clearDest]

end FailCommand

end Sys2Proof.Machine
end

