-- ==== Sys2Proof/Laws/Exec.lean ====
section
/-! SUPPORT. What each family of commands can do, once: the cases of GEN, of ENC and DEC, and of CLEAR. -/

namespace Sys2Proof.Machine

/-- GEN answers one of three states (R67): LENGTH_RANGE, KEY_TOO_LONG, or the key written. -/
theorem genResult_cases (h : Hash) (x : Bool) (s : State) :
    (s.cfg.maxSeed < s.seedLen.toNat ∧ genResult h x s = s.failCommand .key .lengthRange) ∨
    (s.seedLen.toNat ≤ s.cfg.maxSeed ∧ x = false ∧ 64 < s.seedLen.toNat ∧
      genResult h x s = s.failCommand .key .keyTooLong) ∨
    (s.seedLen.toNat ≤ s.cfg.maxSeed ∧ (x = true ∨ s.seedLen.toNat ≤ 64) ∧
      genResult h x s = (s.writeResult .key (expandN h (render (s.vec .seed)) (4 * s.seedLen.toNat))
        (4 * s.seedLen.toNat)).succeed) := by
  unfold genResult Config.digestBits
  split
  · exact .inl ⟨by assumption, rfl⟩
  · split
    · next h1 h2 => exact .inr (.inl ⟨by omega, h2.1, by omega, rfl⟩)
    · next h1 h2 =>
      refine .inr (.inr ⟨by omega, ?_, rfl⟩)
      cases x
      · right; by_contra hc; exact h2 ⟨rfl, by omega⟩
      · exact .inl rfl

/-- ENC and DEC answer one of three states (R91, R95): LENGTH_RANGE, LENGTH_MISMATCH, or the output written. -/
theorem cipherResult_cases (f : List Bool → List Bool → List Bool) (strict : Bool) (s : State) :
    ((s.cfg.maxKey < s.keyLen.toNat ∨ s.cfg.maxMsg < s.msgLen.toNat) ∧
      cipherResult f strict s = s.failCommand .out .lengthRange) ∨
    ((s.keyLen.toNat ≤ s.cfg.maxKey ∧ s.msgLen.toNat ≤ s.cfg.maxMsg) ∧ strict = true ∧ s.keyLen ≠ s.msgLen ∧
      cipherResult f strict s = s.failCommand .out .lengthMismatch) ∨
    ((s.keyLen.toNat ≤ s.cfg.maxKey ∧ s.msgLen.toNat ≤ s.cfg.maxMsg) ∧ (strict = true → s.keyLen = s.msgLen) ∧
      cipherResult f strict s = (s.writeResult .out (f (s.vec .key) (s.vec .msg)) s.cipherLen).succeed) := by
  unfold cipherResult State.cipherRange
  split
  · next h =>
    refine .inl ⟨?_, rfl⟩
    simpa using h
  · next h =>
    have h' : s.keyLen.toNat ≤ s.cfg.maxKey ∧ s.msgLen.toNat ≤ s.cfg.maxMsg := by simpa using h
    split
    · next h2 => exact .inr (.inl ⟨h', h2.1, h2.2, rfl⟩)
    · next h2 =>
      refine .inr (.inr ⟨h', ?_, rfl⟩)
      intro hs
      by_contra hc
      exact h2 ⟨hs, hc⟩

/-- The meaning of GEN by its two mode bits. -/
theorem exec_genOf (hsel x : Bool) (s : State) :
    exec (genOf hsel x) s = .next (genResult (if hsel then .keccak256 else .sha256) x s) := by
  cases hsel <;> cases x <;> rfl

/-- The meaning of ENC by its mode bit. -/
theorem exec_encOf (strict : Bool) (s : State) : exec (encOf strict) s = .next (cipherResult encVec strict s) := by
  cases strict <;> rfl

/-- The meaning of DEC by its mode bit. -/
theorem exec_decOf (strict : Bool) (s : State) : exec (decOf strict) s = .next (cipherResult decVec strict s) := by
  cases strict <;> rfl

/-- The destination of each GEN (R59). -/
@[simp] theorem destOf_genOf (hsel x : Bool) : Safety.destOf (genOf hsel x) = some .key := by
  cases hsel <;> cases x <;> rfl

/-- The destination of each ENC (R59). -/
@[simp] theorem destOf_encOf (strict : Bool) : Safety.destOf (encOf strict) = some .out := by cases strict <;> rfl

/-- The destination of each DEC (R59). -/
@[simp] theorem destOf_decOf (strict : Bool) : Safety.destOf (decOf strict) = some .out := by cases strict <;> rfl

/-- Every completion is a GEN, an ENC, a DEC or a CLEAR, and answers a next state (R37). -/
theorem exec_cases (i : Instr) (s t : State) (h : exec i s = .next t) :
    (∃ hsel x, i = genOf hsel x ∧ t = genResult (if hsel then .keccak256 else .sha256) x s) ∨
    (∃ f st, (i = encOf st ∧ f = encVec ∨ i = decOf st ∧ f = decVec) ∧ t = cipherResult f st s) ∨
    i = .clear ∧ t = ((((s.clearDest .seed).clearDest .key).clearDest .msg).clearDest .out).succeed := by
  cases i <;> injection h with h <;> subst h
  · exact .inl ⟨false, false, rfl, rfl⟩
  · exact .inl ⟨true, false, rfl, rfl⟩
  · exact .inl ⟨false, true, rfl, rfl⟩
  · exact .inl ⟨true, true, rfl, rfl⟩
  · exact .inr (.inl ⟨_, false, .inl ⟨rfl, rfl⟩, rfl⟩)
  · exact .inr (.inl ⟨_, true, .inl ⟨rfl, rfl⟩, rfl⟩)
  · exact .inr (.inl ⟨_, false, .inr ⟨rfl, rfl⟩, rfl⟩)
  · exact .inr (.inl ⟨_, true, .inr ⟨rfl, rfl⟩, rfl⟩)
  · exact .inr (.inr ⟨rfl, rfl⟩)

/-- No command faults and none is refused. -/
theorem exec_answers (i : Instr) (s : State) : ∃ t, exec i s = .next t := by
  cases i <;> exact ⟨_, rfl⟩

end Sys2Proof.Machine
end

