-- ==== Sys2Proof/Laws/PerInstr.lean ====
section
/-! SUPPORT. The per-command laws of the syntax: each command's word is legal, decodes to it, and comes back from the
fields ENG latches. -/

namespace Sys2Proof.Laws.CommandWord

open Sys2Proof Sys2Proof.Machine

/-- A command's word has RES = 0 and decodes to the command; on a part that has what the command needs, the word passes
the formula of R61; and the fields ENG latches name the command (R34, R58, R60). -/
def Statement (i : Instr) : Prop :=
  fieldRes (encode i) = 0 ∧ decodeWord (encode i) = .ok i ∧
    (∀ p : Params, i.wellFormed p = true → legalWord p (encode i) = true) ∧ instrOf (commandOf i) = i

/-- The formula of R61 looks at a part only through these three facts. -/
theorem legalWord_of_facts (p : Params) (v : Word) (sha kec ext : Bool) (h1 : p.hashes.has .sha256 = sha)
    (h2 : p.hashes.has .keccak256 = kec) (h3 : p.extend = ext) :
    legalWord p v = (((v &&& 0xFFFFFFCF#32) == 0x00000001#32 && (!v.getLsbD 4 || kec) && (v.getLsbD 4 || sha)
      && (!v.getLsbD 5 || ext)) || (v &&& 0xFFFFFFBF#32) == 0x00000002#32
      || (v &&& 0xFFFFFFBF#32) == 0x00000003#32 || v == 0x00000004#32) := by
  subst h1 h2 h3
  rfl

theorem genSha256 : Statement .genSha256 := by
  refine ⟨by decide, by decide, fun p h => ?_, rfl⟩
  have h1 : p.hashes.has .sha256 = true := by simpa [Instr.wellFormed, Instr.hashPresent, Instr.extendPresent,
    Instr.hash?, Instr.needsExtend] using h
  rw [legalWord_of_facts p _ _ _ _ h1 rfl rfl]
  generalize p.hashes.has .keccak256 = k
  generalize p.extend = e
  revert k e
  decide

theorem genKeccak : Statement .genKeccak := by
  refine ⟨by decide, by decide, fun p h => ?_, rfl⟩
  have h1 : p.hashes.has .keccak256 = true := by simpa [Instr.wellFormed, Instr.hashPresent, Instr.extendPresent,
    Instr.hash?, Instr.needsExtend] using h
  rw [legalWord_of_facts p _ _ _ _ rfl h1 rfl]
  generalize p.hashes.has .sha256 = k
  generalize p.extend = e
  revert k e
  decide

theorem genSha256X : Statement .genSha256X := by
  refine ⟨by decide, by decide, fun p h => ?_, rfl⟩
  have h1 : p.hashes.has .sha256 = true ∧ p.extend = true := by simpa [Instr.wellFormed, Instr.hashPresent,
    Instr.extendPresent, Instr.hash?, Instr.needsExtend] using h
  rw [legalWord_of_facts p _ _ _ _ h1.1 rfl h1.2]
  generalize p.hashes.has .keccak256 = k
  revert k
  decide

theorem genKeccakX : Statement .genKeccakX := by
  refine ⟨by decide, by decide, fun p h => ?_, rfl⟩
  have h1 : p.hashes.has .keccak256 = true ∧ p.extend = true := by simpa [Instr.wellFormed, Instr.hashPresent,
    Instr.extendPresent, Instr.hash?, Instr.needsExtend] using h
  rw [legalWord_of_facts p _ _ _ _ rfl h1.1 h1.2]
  generalize p.hashes.has .sha256 = k
  revert k
  decide

/-- A word that is legal whatever the part has. -/
theorem legalWord_always (p : Params) (v : Word)
    (h : ((v &&& 0xFFFFFFBF#32) == 0x00000002#32 || (v &&& 0xFFFFFFBF#32) == 0x00000003#32 || v == 0x00000004#32)
      = true) : legalWord p v = true := by
  unfold legalWord
  rw [Bool.or_assoc, Bool.or_assoc, ← Bool.or_assoc ((v &&& 0xFFFFFFBF#32) == 0x00000002#32), h, Bool.or_true]

theorem enc : Statement .enc :=
  ⟨by decide, by decide, fun p _ => legalWord_always p _ (by decide), rfl⟩

theorem encStrict : Statement .encStrict :=
  ⟨by decide, by decide, fun p _ => legalWord_always p _ (by decide), rfl⟩

theorem dec : Statement .dec :=
  ⟨by decide, by decide, fun p _ => legalWord_always p _ (by decide), rfl⟩

theorem decStrict : Statement .decStrict :=
  ⟨by decide, by decide, fun p _ => legalWord_always p _ (by decide), rfl⟩

theorem clear : Statement .clear :=
  ⟨by decide, by decide, fun p _ => legalWord_always p _ (by decide), rfl⟩

end Sys2Proof.Laws.CommandWord
end

