-- ==== Sys2Proof/Laws/Step.lean ====
section
/-! SUPPORT. What a host transaction and a step can do, once. -/

namespace Sys2Proof.Machine

/-! ### Locations -/

/-- What each register offset names (R40). -/
theorem locOf_registers (p : Params) :
    locOf p 0x000 = .id ∧ locOf p 0x004 = .ctrl ∧ locOf p 0x008 = .cmd ∧ locOf p 0x00C = .status ∧
      locOf p 0x010 = .len .seed ∧ locOf p 0x014 = .len .key ∧ locOf p 0x018 = .len .msg ∧
      locOf p 0x01C = .len .out := ⟨rfl, rfl, rfl, rfl, rfl, rfl, rfl, rfl⟩

/-- The name of a length register in a script stands for that register (R40, R66). -/
@[simp] theorem locOf_lenOffset (p : Params) (b : Buf) : locOf p (lenOffset b) = .len b := by cases b <;> rfl

/-- What the offset of a buffer word names (R40, R45). -/
theorem locOf_buf (p : Params) (b : Buf) (w : Nat) (h : w < 64) : locOf p (b.base + 4 * w) = bufLoc p b w := by
  cases b
  · show locOf p (0x100 + 4 * w) = _
    unfold locOf
    rw [if_neg (by omega), if_pos (by omega)]; congr 1; omega
  · show locOf p (0x200 + 4 * w) = _
    unfold locOf
    rw [if_neg (by omega), if_neg (by omega), if_pos (by omega)]; congr 1; omega
  · show locOf p (0x300 + 4 * w) = _
    unfold locOf
    rw [if_neg (by omega), if_neg (by omega), if_neg (by omega), if_pos (by omega)]; congr 1; omega
  · show locOf p (0x400 + 4 * w) = _
    unfold locOf
    rw [if_neg (by omega), if_neg (by omega), if_neg (by omega), if_neg (by omega), if_pos (by omega)]
    congr 1; omega

theorem bufLoc_cases (p : Params) (b : Buf) (w : Nat) :
    (32 * w < b.size p ∧ bufLoc p b w = .buf b w) ∨ (b.size p ≤ 32 * w ∧ bufLoc p b w = .reserved) := by
  unfold bufLoc
  split
  · exact .inl ⟨by assumption, rfl⟩
  · exact .inr ⟨by omega, rfl⟩

theorem regLoc_cases (off : Nat) :
    (off = 0x000 ∧ regLoc off = .id) ∨ (off = 0x004 ∧ regLoc off = .ctrl) ∨ (off = 0x008 ∧ regLoc off = .cmd) ∨
    (off = 0x00C ∧ regLoc off = .status) ∨ (∃ b, regLoc off = .len b) ∨ regLoc off = .reserved := by
  unfold regLoc
  split <;> simp

/-- A location is a register below 0x100, an implemented buffer word, or reserved (R40, R41, R45). -/
theorem locOf_cases (p : Params) (off : Nat) :
    (off < 0x100 ∧ locOf p off = regLoc off) ∨ locOf p off = .reserved ∨
    ∃ b w, 32 * w < b.size p ∧ locOf p off = .buf b w := by
  have buf : ∀ b w, locOf p off = bufLoc p b w →
      locOf p off = .reserved ∨ ∃ b w, 32 * w < b.size p ∧ locOf p off = .buf b w := by
    intro b w h
    rcases bufLoc_cases p b w with ⟨h1, h2⟩ | ⟨_, h2⟩
    · exact .inr ⟨b, w, h1, h.trans h2⟩
    · exact .inl (h.trans h2)
  by_cases h1 : off < 0x100
  · exact .inl ⟨h1, by unfold locOf; rw [if_pos h1]⟩
  right
  by_cases h2 : off < 0x200
  · exact buf .seed _ (by unfold locOf; rw [if_neg h1, if_pos h2])
  by_cases h3 : off < 0x300
  · exact buf .key _ (by unfold locOf; rw [if_neg h1, if_neg h2, if_pos h3])
  by_cases h4 : off < 0x400
  · exact buf .msg _ (by unfold locOf; rw [if_neg h1, if_neg h2, if_neg h3, if_pos h4])
  by_cases h5 : off < 0x500
  · exact buf .out _ (by unfold locOf; rw [if_neg h1, if_neg h2, if_neg h3, if_neg h4, if_pos h5])
  · exact .inl (by unfold locOf; rw [if_neg h1, if_neg h2, if_neg h3, if_neg h4, if_neg h5])

/-- The only offset that names CTRL is 0x004 (R40). -/
theorem locOf_ctrl_iff (p : Params) (off : Nat) : locOf p off = .ctrl ↔ off = 0x004 := by
  refine ⟨fun h => ?_, by rintro rfl; rfl⟩
  rcases locOf_cases p off with ⟨_, h1⟩ | h1 | ⟨b, w, _, h1⟩ <;> rw [h] at h1
  · rcases regLoc_cases off with ⟨_, h2⟩ | ⟨h3, _⟩ | ⟨_, h2⟩ | ⟨_, h2⟩ | ⟨_, h2⟩ | h2 <;>
      first | exact h3 | (rw [h2] at h1; cases h1)
  · cases h1
  · cases h1

/-- The only offset that names CMD is 0x008 (R40). -/
theorem locOf_cmd_iff (p : Params) (off : Nat) : locOf p off = .cmd ↔ off = 0x008 := by
  refine ⟨fun h => ?_, by rintro rfl; rfl⟩
  rcases locOf_cases p off with ⟨_, h1⟩ | h1 | ⟨b, w, _, h1⟩ <;> rw [h] at h1
  · rcases regLoc_cases off with ⟨_, h2⟩ | ⟨_, h2⟩ | ⟨h3, _⟩ | ⟨_, h2⟩ | ⟨_, h2⟩ | h2 <;>
      first | exact h3 | (rw [h2] at h1; cases h1)
  · cases h1
  · cases h1

/-- The only offset that names STATUS is 0x00C (R40). -/
theorem locOf_status_iff (p : Params) (off : Nat) : locOf p off = .status ↔ off = 0x00C := by
  refine ⟨fun h => ?_, by rintro rfl; rfl⟩
  rcases locOf_cases p off with ⟨_, h1⟩ | h1 | ⟨b, w, _, h1⟩ <;> rw [h] at h1
  · rcases regLoc_cases off with ⟨_, h2⟩ | ⟨_, h2⟩ | ⟨_, h2⟩ | ⟨h3, _⟩ | ⟨_, h2⟩ | h2 <;>
      first | exact h3 | (rw [h2] at h1; cases h1)
  · cases h1
  · cases h1

/-- A buffer word that a location names is implemented (R45). -/
theorem locOf_buf_implemented (p : Params) (off : Nat) (b : Buf) (w : Nat) (h : locOf p off = .buf b w) :
    32 * w < b.size p := by
  rcases locOf_cases p off with ⟨_, h1⟩ | h1 | ⟨b', w', h2, h1⟩ <;> rw [h] at h1
  · rcases regLoc_cases off with ⟨_, h2⟩ | ⟨_, h2⟩ | ⟨_, h2⟩ | ⟨_, h2⟩ | ⟨_, h2⟩ | h2 <;> (rw [h2] at h1; cases h1)
  · cases h1
  · injection h1 with e1 e2; subst e1 e2; exact h2

/-! ### Host transactions -/

/-- A read leaves the state, or uses up one free value (R46, R49). -/
theorem busRead_state (off : Nat) (s : State) : (busRead off s).2 = s ∨ s.busy = true ∧ (busRead off s).2 = s.draw := by
  have free : ∀ v, (readUnlessBusy s v).2 = s ∨ s.busy = true ∧ (readUnlessBusy s v).2 = s.draw := by
    intro v
    unfold readUnlessBusy
    cases s.busy
    · exact .inl rfl
    · exact .inr ⟨rfl, rfl⟩
  unfold busRead
  cases locOf s.cfg off
  case len => exact free _
  case buf => exact free _
  all_goals exact .inl rfl

/-- What a write of a word to CMD of an idle block can do (R61, R105). -/
theorem writeCmd_cases (v : Word) (s : State) :
    (∃ i, acceptWord s.cfg v = .ok i ∧ writeCmd v s = (s.accept i (Config.latency s.drawn)).draw) ∨
    (∃ e, acceptWord s.cfg v = .error e ∧ writeCmd v s = s.reportIllegal) := by
  unfold writeCmd
  cases h : acceptWord s.cfg v with
  | ok i => exact .inl ⟨i, rfl, rfl⟩
  | error e => exact .inr ⟨e, rfl, rfl⟩

/-- Everything a write can do (R47, R48). -/
theorem busWrite_cases (off : Nat) (v : Word) (s : State) :
    busWrite off v s = s ∨
    (off = 0x004 ∧ busWrite off v s = s.setIrqEn (v.getLsbD 0)) ∨
    (off = 0x00C ∧ busWrite off v s = s.acknowledge v) ∨
    (s.busy = true ∧ busWrite off v s = s.setOvr ∧
      (locOf s.cfg off = .cmd ∨ (∃ b, b ≠ Buf.out ∧ locOf s.cfg off = .len b) ∨
        ∃ b w, b ≠ Buf.out ∧ locOf s.cfg off = .buf b w)) ∨
    (s.busy = false ∧ off = 0x008 ∧ busWrite off v s = writeCmd v s) ∨
    (s.busy = false ∧ ∃ b, b ≠ Buf.out ∧ locOf s.cfg off = .len b ∧
      busWrite off v s = s.setLen b (v.setWidth 16)) ∨
    (s.busy = false ∧ ∃ b w, b ≠ Buf.out ∧ locOf s.cfg off = .buf b w ∧
      busWrite off v s = s.setMem (s.mem.writeWord (b.base + 4 * w) v)) := by
  unfold busWrite writeUnlessBusy
  cases hl : locOf s.cfg off with
  | id => exact .inl rfl
  | reserved => exact .inl rfl
  | ctrl => exact .inr (.inl ⟨(locOf_ctrl_iff _ _).mp hl, rfl⟩)
  | status => exact .inr (.inr (.inl ⟨(locOf_status_iff _ _).mp hl, rfl⟩))
  | cmd =>
    cases hb : s.busy
    · exact .inr (.inr (.inr (.inr (.inl ⟨rfl, (locOf_cmd_iff _ _).mp hl, by simp⟩))))
    · exact .inr (.inr (.inr (.inl ⟨rfl, by simp, .inl rfl⟩)))
  | len b =>
    cases hb : s.busy <;> cases b
    all_goals first
      | exact .inl rfl
      | exact .inr (.inr (.inr (.inr (.inr (.inl ⟨rfl, _, by decide, rfl, by simp⟩)))))
      | exact .inr (.inr (.inr (.inl ⟨rfl, by simp, .inr (.inl ⟨_, by decide, rfl⟩)⟩)))
  | buf b w =>
    cases hb : s.busy <;> cases b
    all_goals first
      | exact .inl rfl
      | exact .inr (.inr (.inr (.inr (.inr (.inr ⟨rfl, _, _, by decide, rfl, by simp⟩)))))
      | exact .inr (.inr (.inr (.inl ⟨rfl, by simp, .inr (.inr ⟨_, _, by decide, rfl⟩)⟩)))

/-! ### Steps -/

theorem State.due_idle (s : State) (h : s.busy = false) : s.due = none := by
  rw [State.not_busy_iff] at h
  unfold State.due
  rw [h]

theorem State.due_busy (s : State) (c : Command) (h : s.eng = .busy c) :
    s.due = if s.wait = 0 then some (instrOf c) else none := by
  unfold State.due
  rw [h]

/-- A step in which no completion is due is the host's turn. -/
theorem step_of_not_due (s : State) (h : s.due = none) : step s = hostTurn s := by
  unfold step
  rw [h]

/-- A step in which a completion is due is that command's. -/
theorem step_of_due (s : State) (i : Instr) (h : s.due = some i) : step s = exec i s := by
  unfold step
  rw [h]

/-- Everything a step that answers a next state can be: a completion, a tick with nothing for the host to do, a reset,
a poll, a read or a write. -/
theorem step_cases (s t : State) (h : step s = .next t) :
    (∃ i, s.due = some i ∧ exec i s = .next t) ∨
    (s.due = none ∧ s.inbox = [] ∧ t = s.tick) ∨
    (s.due = none ∧ ∃ rest, s.inbox = .reset :: rest ∧ t = (s.tick.setInbox rest).resetBlock) ∨
    (s.due = none ∧ ∃ n rest, s.inbox = .poll n :: rest ∧ t = hostPoll n (s.tick.setInbox rest)) ∨
    (s.due = none ∧ ∃ addr n rest off, s.inbox = .rd .word addr n :: rest ∧ busTarget .word addr = .ok off ∧
      t = (busRead off (s.tick.setInbox rest)).2.bind n (busRead off (s.tick.setInbox rest)).1) ∨
    (s.due = none ∧ ∃ addr x rest off v, s.inbox = .wr .word addr x :: rest ∧ busTarget .word addr = .ok off ∧
      hostValue s x = some v ∧ t = busWrite off v (s.tick.setInbox rest)) := by
  have target_word : ∀ w addr off, busTarget w addr = .ok off → w = .word := by
    intro w addr off h
    unfold busTarget at h
    split at h
    · cases h
    · split at h
      · next h2 => exact h2.1
      · cases h
  cases hd : s.due with
  | some i => exact .inl ⟨i, rfl, by rwa [step_of_due s i hd] at h⟩
  | none =>
    rw [step_of_not_due s hd] at h
    unfold hostTurn at h
    split at h
    · next hi => injection h with h; exact .inr (.inl ⟨rfl, hi, h.symm⟩)
    · next op rest hi =>
      cases op with
      | reset =>
        injection h with h
        exact .inr (.inr (.inl ⟨rfl, rest, hi, h.symm⟩))
      | poll n =>
        injection h with h
        exact .inr (.inr (.inr (.inl ⟨rfl, n, rest, hi, h.symm⟩)))
      | rd w addr n =>
        simp only [hostOp, hostRead] at h
        split at h
        · cases h
        · next off ht =>
          obtain rfl := target_word w addr off ht
          injection h with h
          exact .inr (.inr (.inr (.inr (.inl ⟨rfl, addr, n, rest, off, hi, ht, h.symm⟩))))
      | wr w addr x =>
        simp only [hostOp, hostWrite] at h
        split at h
        · cases h
        · next off ht =>
          obtain rfl := target_word w addr off ht
          split at h
          · cases h
          · next v hv =>
            injection h with h
            exact .inr (.inr (.inr (.inr (.inr ⟨rfl, addr, x, rest, off, v, hi, ht, by cases x <;> exact hv, h.symm⟩))))

/-! ### Runs -/

/-- A run of one step more, when that step answers a next state. -/
theorem core_run_next (k : Nat) (s u : State) (h : step s = .next u) : core.run (k + 1) s = core.run k u := by
  have h' : core.step s = .next u := h
  simp only [Host.Core.run, h']

/-- A run stops at a fault. -/
theorem core_run_fault (k : Nat) (s : State) (f : Fault) (h : step s = .fault f) :
    core.run (k + 1) s = .fault f := by
  have h' : core.step s = .fault f := h
  simp only [Host.Core.run, h']

/-- A run stops at a refusal. -/
theorem core_run_refused (k : Nat) (s : State) (r : Refusal) (h : step s = .refused r) :
    core.run (k + 1) s = .refused r := by
  have h' : core.step s = .refused r := h
  simp only [Host.Core.run, h']

end Sys2Proof.Machine
end

