-- ==== Sys2Proof/Tests/Slice0.lean ====
section
/-! SUPPORT. Tests: the well-formedness smoke test, decoding of words written out from R58, vectors of
spec/95_test_vectors.md (cited by number), and a witness for the hypotheses of every statement that has some. -/

namespace Sys2Proof.Tests

open Sys2Proof Sys2Proof.Machine Sys2Proof.Safety

/-! ### Helpers -/

/-- A part with one engine and no extension logic (R8). -/
def smallPart (h : HashSet) : Params := { seedSize := 6, hashes := h, extend := false }

/-- Words stored in a buffer from its word 0. -/
def putWords (m : Memory) (b : Buf) (ws : List Word) : Memory := m.writeBytes b.base (ws.flatMap bytesOfWord)

/-- The reset state with a seed loaded. -/
def seeded (n : Nat) (ws : List Word) : State :=
  { State.reset with seedLen := BitVec.ofNat 16 n, mem := putWords [] .seed ws }

/-- The reset state with a key and a message loaded, one word each. -/
def keyed (kl : Nat) (k : Word) (ml : Nat) (m : Word) : State :=
  { State.reset with
    keyLen := BitVec.ofNat 16 kl
    msgLen := BitVec.ofNat 16 ml
    mem := putWords (putWords [] .key [k]) .msg [m] }

/-- The state after a completion. -/
def after (i : Instr) (s : State) : State :=
  match exec i s with
  | .next t => t
  | .fault _ => s
  | .refused _ => s

/-- The result a host reads after ENC or DEC: STATUS, OUT_LEN and OUT_BUF word 0. -/
def outView (s : State) : Word × Word × Word := (s.statusWord, s.lenWord .out, s.mem.word 0x400)

/-- The result a host reads after GEN: STATUS, KEY_LEN and KEY_BUF word 0. -/
def keyView (s : State) : Word × Word × Word := (s.statusWord, s.lenWord .key, s.mem.word 0x200)

/-- The state with lines for the host. -/
def withHost (s : State) (l : List HostOp) : State := { s with inbox := l }

/-- A block busy with GEN.SHA256 on V1's seed. -/
def busyGen (latency : Nat) : State :=
  { seeded 8 [0x0000002D] with eng := .busy (commandOf .genSha256), wait := latency }

/-! ### Well-formedness: one ill-formed command for each check, which the check refuses (R61) -/

theorem test_wf_hash_absent : Instr.genKeccak.wellFormed (smallPart .shaOnly) = false := by decide

theorem test_wf_other_hash_absent : Instr.genSha256.wellFormed (smallPart .keccakOnly) = false := by decide

theorem test_wf_extend_absent : Instr.genSha256X.wellFormed (smallPart .both) = false := by decide

theorem test_wf_default_part :
    [Instr.genSha256, .genKeccak, .genSha256X, .genKeccakX, .enc, .encStrict, .dec, .decStrict, .clear].all
      (fun i => i.wellFormed Config.defaultParams) = true := by decide

/-! ### Decoding: RES, STRICT, XTND, HSEL, OP written out from R58 (V60) -/

theorem test_decode_genSha256 : decodeWord (0#25 ++ 0b0#1 ++ 0b0#1 ++ 0b0#1 ++ 0b0001#4) = .ok .genSha256 := by decide

theorem test_decode_genKeccak : decodeWord (0#25 ++ 0b0#1 ++ 0b0#1 ++ 0b1#1 ++ 0b0001#4) = .ok .genKeccak := by decide

theorem test_decode_genSha256X : decodeWord (0#25 ++ 0b0#1 ++ 0b1#1 ++ 0b0#1 ++ 0b0001#4) = .ok .genSha256X := by
  decide

theorem test_decode_genKeccakX : decodeWord (0#25 ++ 0b0#1 ++ 0b1#1 ++ 0b1#1 ++ 0b0001#4) = .ok .genKeccakX := by
  decide

theorem test_decode_enc : decodeWord (0#25 ++ 0b0#1 ++ 0b0#1 ++ 0b0#1 ++ 0b0010#4) = .ok .enc := by decide

theorem test_decode_encStrict : decodeWord (0#25 ++ 0b1#1 ++ 0b0#1 ++ 0b0#1 ++ 0b0010#4) = .ok .encStrict := by decide

theorem test_decode_dec : decodeWord (0#25 ++ 0b0#1 ++ 0b0#1 ++ 0b0#1 ++ 0b0011#4) = .ok .dec := by decide

theorem test_decode_decStrict : decodeWord (0#25 ++ 0b1#1 ++ 0b0#1 ++ 0b0#1 ++ 0b0011#4) = .ok .decStrict := by decide

theorem test_decode_clear : decodeWord (0#25 ++ 0b0#1 ++ 0b0#1 ++ 0b0#1 ++ 0b0100#4) = .ok .clear := by decide

/-- The words of V60, by opcode-table number. -/
theorem test_decode_table_words :
    [0x01, 0x11, 0x21, 0x31, 0x02, 0x42, 0x03, 0x43, 0x04].map (decodeTableWord 32) =
      [some .genSha256, some .genKeccak, some .genSha256X, some .genKeccakX, some .enc, some .encStrict, some .dec,
        some .decStrict, some .clear] := by decide

/-- V61: illegal words, by the reason of the rejection. -/
theorem test_decode_illegal :
    decodeWord 0x00000000 = .error .opUnassigned ∧ decodeWord 0x0000000F = .error .opUnassigned ∧
      decodeWord 0x00000071 = .error .strictOnGen ∧ decodeWord 0x00000022 = .error .modeOnCipher ∧
      decodeWord 0x00000063 = .error .modeOnCipher ∧ decodeWord 0x00000044 = .error .modeOnClear ∧
      decodeWord 0x00000081 = .error .reservedSet ∧ decodeWord 0x80000001 = .error .reservedSet ∧
      decodeWord 0xFFFFFFFF = .error .opUnassigned := by decide

/-- V62: decode that depends on the parameters. -/
theorem test_accept_parameters :
    acceptWord (smallPart .shaOnly) 0x11 = .error .hashAbsent ∧ acceptWord (smallPart .shaOnly) 0x01 = .ok .genSha256 ∧
      acceptWord (smallPart .keccakOnly) 0x01 = .error .hashAbsent ∧
      acceptWord (smallPart .both) 0x31 = .error .extendAbsent := by decide

/-! ### The hash engines (V90 to V93) -/

set_option maxRecDepth 100000

/-- V90: SHA256("abc"). -/
theorem test_sha256_abc : ofBeBytes (sha256 [0x61, 0x62, 0x63]) =
    0xba7816bf8f01cfea414140de5dae2223b00361a396177a9cb410ff61f20015ad := by decide +kernel

/-- V92: KECCAK256(""), which SHA3-256 padding would get wrong (V94). -/
theorem test_keccak256_empty : ofBeBytes (keccak256 []) =
    0xc5d2460186f7233c927e7db2dcc703c0e500b653ca82273b7bfad8045d85a470 := by decide +kernel

/-! ### GEN vectors -/

/-- V1. -/
theorem test_genSha256_v1 : keyView (after .genSha256 (seeded 8 [0x0000002D])) = (0x02, 0x20, 0xDCC167D3) := by
  decide +kernel

/-- V14: no short key remains. -/
theorem test_genSha256_v14 :
    keyView (after .genSha256 { seeded 65 [0xFFFFFFFF, 0xFFFFFFFF, 1] with keyLen := 32 }) = (0x16, 0, 0) := by
  decide +kernel

/-- V2. -/
theorem test_genKeccak_v2 : keyView (after .genKeccak (seeded 8 [0x0000002D])) = (0x02, 0x20, 0x7B5188EB) := by
  decide +kernel

/-- V18: the range check comes before the overflow check. -/
theorem test_genKeccak_v18 : keyView (after .genKeccak (seeded 257 [])) = (0x46, 0, 0) := by decide +kernel

/-- V15: the extended key, its first word and the word that the second block begins. -/
theorem test_genSha256X_v15 :
    let t := after .genSha256X (seeded 65 [0xFFFFFFFF, 0xFFFFFFFF, 1])
    (keyView t, t.mem.word 0x220) = ((0x02, 0x104, 0xBD8D4CCE), 0x0000000D) := by decide +kernel

/-- V15 with Keccak-256. -/
theorem test_genKeccakX_v15 :
    let t := after .genKeccakX (seeded 65 [0xFFFFFFFF, 0xFFFFFFFF, 1])
    (keyView t, t.mem.word 0x220) = ((0x02, 0x104, 0x58A0351B), 0x0000000F) := by decide +kernel

/-! ### ENC and DEC vectors -/

/-- V22. -/
theorem test_enc_v22 : outView (after .enc (keyed 32 0xDCC167D3 32 0xF77DB57B)) = (0x02, 0x20, 0x8E15F4FA) := by
  decide +kernel

/-- V25: truncation. -/
theorem test_enc_v25 : outView (after .enc (keyed 3 0x7 5 0xD)) = (0x02, 3, 0x4) := by decide +kernel

/-- V28: unequal lengths, an earlier result in OUT_LEN. -/
theorem test_encStrict_v28 :
    outView (after .encStrict { keyed 3 0x5 4 0x5 with outLen := 4 }) = (0x26, 0, 0) := by decide +kernel

/-- V28, equal lengths (V21's first row). -/
theorem test_encStrict_equal : outView (after .encStrict (keyed 4 0x5 4 0x0)) = (0x02, 4, 0x5) := by decide +kernel

/-- V41. -/
theorem test_dec_v41 : outView (after .dec (keyed 32 0xDCC167D3 32 0x8E15F4FA)) = (0x02, 0x20, 0xF77DB57B) := by
  decide +kernel

/-- V42, a row whose plaintext the wrong loop direction would get wrong. -/
theorem test_dec_v42 : outView (after .dec (keyed 4 0x0 4 0xF)) = (0x02, 4, 0x1) := by decide +kernel

/-- V46: unequal lengths. -/
theorem test_decStrict_v46 : outView (after .decStrict (keyed 3 0x5 4 0x5)) = (0x26, 0, 0) := by decide +kernel

/-- V46: a message length over its buffer, which the range check reports first. -/
theorem test_decStrict_range : outView (after .decStrict (keyed 3 0x5 1025 0)) = (0x46, 0, 0) := by decide +kernel

/-- V50. -/
theorem test_clear_v50 :
    let t := after .clear (keyed 32 0xDCC167D3 32 0xF77DB57B)
    (t.statusWord, t.keyLen, t.msgLen, t.mem) = (0x02, 0, 0, []) := by decide +kernel

/-! ### Register and bus vectors -/

/-- V71 and V75. -/
theorem test_bus_id_and_length :
    (busRead 0x000 State.reset).1 = 0x48580807 ∧ (busRead 0x010 (busWrite 0x010 0x12340008 State.reset)).1 = 8 := by
  decide

/-- V71, a part with P_MAX_SEED = 512, only SHA-256, and the extension. -/
theorem test_bus_id_other_part :
    idValue { seedSize := 14, hashes := .shaOnly, extend := true } = 0x48581005 := by decide

/-- V73. -/
theorem test_bus_ctrl : (busRead 0x004 (busWrite 0x004 0xFFFFFFFF State.reset)).1 = 1 := by decide

/-- V79 and V81: W1C. -/
theorem test_bus_acknowledge :
    (busWrite 0x00C 0x4 (busWrite 0x008 0 State.reset)).statusWord = 0x02 ∧
      (busWrite 0x00C 0x2 { State.reset with done := true, ovr := true }).statusWord = 0x08 := by decide

/-- V82: dropped writes. -/
theorem test_bus_dropped :
    busWrite 0x008 0x04 (busWrite 0x300 1 (busWrite 0x010 3 (busyGen 5))) = (busyGen 5).setOvr := by decide

/-- V85: bus errors. -/
theorem test_bus_errors :
    busTarget .byte (.offset 0x010) = .error .busError ∧ busTarget .half (.offset 0x00C) = .error .busError ∧
      busTarget .word (.offset 0x102) = .error .busError ∧ busTarget .word (.offset 0xFFC) = .ok 0xFFC := by decide

/-- R44's own example, and V70's word. -/
theorem test_script_word : scriptWord [true, false, true, true, false, true, false, false] 0 = 0x0000002D := by decide

/-- The command placed by `withFetchWord` is what the next step runs (V1). -/
theorem test_fetch_word :
    (match step ((seeded 8 [0x0000002D]).withFetchWord 32 0x01) with
      | .next t => keyView t
      | _ => (0, 0, 0)) = (0x02, 0x20, 0xDCC167D3) := by decide +kernel

/-! ### Witnesses: for every statement with hypotheses, a state and operands that meet all of them together -/

/-- The reset line next, on an idle block and on a busy one. -/
theorem test_witness_ResetEventRestoresCells :
    resetIsNext (withHost State.reset [.reset]) [] ∧ resetIsNext (withHost (busyGen 5) [.reset]) [] :=
  ⟨⟨rfl, rfl⟩, rfl, rfl⟩

/-- Each line of R62's list, on an idle block of a part where it can hold. -/
theorem test_witness_IllegalWordsAreListed :
    State.reset.busy = false ∧
      [0x00000000, 0x00000005, 0x0000000F, 0x00000041, 0x00000081, 0x00000012, 0x00000022, 0x00000013, 0x80000002,
        0x00000014, 0x80000004].all (fun v => decide ((busWrite 0x008 v State.reset).errCode = 3)) = true ∧
      (busWrite 0x008 0x11 { State.reset with cfg := smallPart .shaOnly }).errCode = 3 ∧
      (busWrite 0x008 0x01 { State.reset with cfg := smallPart .keccakOnly }).errCode = 3 ∧
      (busWrite 0x008 0x21 { State.reset with cfg := smallPart .both }).errCode = 3 := by decide

/-- A write of GEN.SHA256.X to CMD of an idle block, by a number and by a bound name. -/
theorem test_witness_AcceptLatchesCommand :
    State.reset.busy = false ∧ legalWord State.reset.cfg 0x21 = true ∧
      writeIsNext (withHost State.reset [scriptWr 0x008 (.lit 0x21)]) 0x008 0x21 [] ∧
      writeIsNext { withHost State.reset [scriptWr 0x008 (.name 7)] with names := [(7, 0x21)] } 0x008 0x21 [] :=
  ⟨rfl, by decide, ⟨rfl, _, _, rfl, rfl, rfl⟩, rfl, _, _, rfl, rfl, rfl⟩

/-- Word 0 to CMD, on an idle block and on a busy one (V61, V63). -/
theorem test_witness_IllegalWordIsReported :
    (State.reset.busy = false ∧ legalWord State.reset.cfg 0 = false ∧
      writeIsNext (withHost State.reset [scriptWr 0x008 (.lit 0)]) 0x008 0 []) ∧
      (busyGen 5).busy = true ∧ writeIsNext (withHost (busyGen 5) [scriptWr 0x008 (.lit 0)]) 0x008 0 [] :=
  ⟨⟨rfl, by decide, rfl, _, _, rfl, rfl, rfl⟩, rfl, rfl, _, _, rfl, rfl, rfl⟩

/-- DEC.STRICT written to CMD; CLEAR placed. -/
theorem test_witness_StepRunsDecodedCommand :
    (State.reset.busy = false ∧ writeIsNext (withHost State.reset [scriptWr 0x008 (.lit 0x43)]) 0x008 0x43 [] ∧
      decodeWord 0x43 = .ok .decStrict ∧ Instr.decStrict.wellFormed State.reset.cfg = true) ∧
      decodeTableWord 32 0x04 = some .clear ∧ Instr.clear.wellFormed State.reset.cfg = true :=
  ⟨⟨rfl, ⟨rfl, _, _, rfl, rfl, rfl⟩, by decide, by decide⟩, by decide, by decide⟩

/-- No line, a write at the top of the window, and a read at the bottom. -/
theorem test_witness_StepRunsHostLine :
    ((busyGen 1).due = none ∧ (busyGen 1).inbox = []) ∧
      writeIsNext (withHost State.reset [scriptWr 0xFFC (.lit 1)]) 0xFFC 1 [] ∧
      readIsNext (withHost State.reset [scriptRd 0x000 3]) 0x000 3 [] :=
  ⟨⟨rfl, rfl⟩, ⟨rfl, _, _, rfl, rfl, rfl⟩, rfl, _, rfl, rfl⟩

/-- POLL next, on a busy block and on an idle one. -/
theorem test_witness_PollRepeatsWhileBusy :
    ((withHost (busyGen 1) [.poll 0]).due = none ∧ (withHost (busyGen 1) [.poll 0]).inbox = [.poll 0]) ∧
      (withHost State.reset [.poll 0]).due = none ∧ (withHost State.reset [.poll 0]).inbox = [.poll 0] :=
  ⟨⟨rfl, rfl⟩, rfl, rfl⟩

/-- A CMD line on an idle block, and a CLRST line after an error and while BUSY. -/
theorem test_witness_ScriptLinesTakeEffect :
    ((withHost State.reset [scriptCmd .genKeccakX]).busy = false ∧
      Instr.genKeccakX.wellFormed (withHost State.reset [scriptCmd .genKeccakX]).cfg = true) ∧
      (withHost (after .genKeccak (seeded 65 [])) [scriptClrst]).due = none ∧
      (withHost (busyGen 1) [scriptClrst]).due = none := by decide +kernel

/-- V70, as the two writes it expands to. -/
theorem test_loadVec_v70 : scriptLoadVec .seed .seed [true, false, true, true, false, true, false, false] =
    [scriptWr 0x010 (.lit 0x00000008), scriptWr 0x100 (.lit 0x0000002D)] := by decide

/-- LENREG is an operand of its own (R66): the key register's length beside the message's buffer. -/
theorem test_loadVec_lenReg : scriptLoadVec .msg .key [true] =
    [scriptWr 0x014 (.lit 0x00000001), scriptWr 0x300 (.lit 0x00000001)] := by decide

/-- The empty vector, and one that fills the buffer, with each length register. -/
theorem test_witness_LoadVecLoadsVector :
    ∀ bits ∈ [[], List.replicate 256 true], ∀ r ∈ [Buf.seed, .key, .msg, .out],
      bits.length ≤ Buf.seed.size (withHost State.reset (scriptLoadVec .seed r bits ++ [.poll 0])).cfg ∧
        (withHost State.reset (scriptLoadVec .seed r bits ++ [.poll 0])).busy = false := by decide

/-- A byte access at offset 0, and a misaligned one at the window's last byte. -/
theorem test_witness_BusErrorFaults :
    (0 < 4096 ∧ (Width.byte ≠ .word ∨ 0 % 4 ≠ 0)) ∧ 4095 < 4096 ∧ (Width.word ≠ .word ∨ 4095 % 4 ≠ 0) := by decide

/-- The first offset outside the window, and the first host address past its end. (P_BASE is free, so whether a host
address lies below it is open.) -/
theorem test_witness_WindowHas4096Bytes :
    4096 ≤ 4096 ∧ busTarget .word (.offset 4096) = .error .outsideWindow ∧
      (Config.pBase + 4096 < Config.pBase ∨ Config.pBase + 4096 ≤ Config.pBase + 4096) :=
  ⟨by decide, by decide, .inr (Nat.le_refl _)⟩

/-- A part with the default parameters. -/
theorem test_witness_IdHasItsFields : State.reset.cfg = Config.defaultParams := rfl

/-- The last implemented word of SEED_BUF, the first word past it, and the ends of the reserved ranges. -/
theorem test_witness_ReadsAreExact :
    (State.reset.busy = false ∧ 32 * 7 < Buf.seed.size State.reset.cfg) ∧
      (Buf.seed.size State.reset.cfg ≤ 32 * 8 ∧ locOf State.reset.cfg (Buf.seed.base + 4 * 8) = .reserved) ∧
      locOf State.reset.cfg 0x020 = .reserved ∧ locOf State.reset.cfg 0x0FF = .reserved ∧
      locOf State.reset.cfg 0x500 = .reserved := by decide

/-- A busy block, a length register and a buffer word (V83). -/
theorem test_witness_BusyReadsAreFree :
    (busyGen 5).busy = true ∧ locOf (busyGen 5).cfg 0x014 = .len .key ∧ locOf (busyGen 5).cfg 0x400 = .buf .out 0 := by
  decide

/-- The ends of the reserved ranges, and the first and last unimplemented words of KEY_BUF (V76, V77). -/
theorem test_witness_ReservedReadsZeroIgnoresWrites :
    (busRead 0x020 (busyGen 5)).1 = 0 ∧ (busRead 0x0FF (busyGen 5)).1 = 0 ∧ (busRead 0x500 (busyGen 5)).1 = 0 ∧
      (32 < 64 ∧ Buf.key.size (busyGen 5).cfg ≤ 32 * 32 ∧ Buf.key.base + 4 * 32 = 0x280) ∧
      63 < 64 ∧ Buf.key.size (busyGen 5).cfg ≤ 32 * 63 := by decide

/-- The last word of OUT_BUF's region. -/
theorem test_witness_ControlWritesTakeEffect : 63 < 64 ∧ 0x400 + 4 * 63 = 0x4FC := by decide

/-- An idle block. -/
theorem test_witness_IdleLengthWrites : State.reset.busy = false := rfl

/-- The last implemented words of SEED_BUF and MSG_BUF. -/
theorem test_witness_IdleBufferWrites :
    State.reset.busy = false ∧ (Buf.seed ≠ .out ∧ 32 * 7 < Buf.seed.size State.reset.cfg) ∧ Buf.msg ≠ .out ∧
      32 * 31 < Buf.msg.size State.reset.cfg := by decide

/-- A busy block, the last implemented word of KEY_BUF (dropped) and the first past it (no effect). -/
theorem test_witness_BusyWritesAreDropped :
    (busyGen 5).busy = true ∧ (Buf.key ≠ .out ∧ 32 * 31 < Buf.key.size (busyGen 5).cfg) ∧
      (32 < 64 ∧ Buf.key.size (busyGen 5).cfg ≤ 32 * 32) ∧ (0x500 : Nat) ≤ 0x500 ∧ 63 < 64 := by decide

/-- The longest seed of each policy. -/
theorem test_witness_GenWritesKey :
    ((seeded 64 []).seedLen.toNat ≤ (seeded 64 []).cfg.maxSeed ∧ (seeded 64 []).seedLen.toNat ≤ 64) ∧
      (seeded 256 []).seedLen.toNat ≤ (seeded 256 []).cfg.maxSeed := by decide

/-- The shortest seed that each check rejects. -/
theorem test_witness_GenFailsClearingKey :
    (seeded 257 []).cfg.maxSeed < (seeded 257 []).seedLen.toNat ∧
      (seeded 65 []).seedLen.toNat ≤ (seeded 65 []).cfg.maxSeed ∧ 64 < (seeded 65 []).seedLen.toNat := by decide

/-- Both sides of the length contract. -/
theorem test_witness_GenLengthContract :
    (after .genSha256 (seeded 0 [])).err = false ∧ (after .genSha256 (seeded 65 [])).err = true := by decide +kernel

/-- The seed 10110100 renders as the text of R81's second check value; the last index of a vector of one bit. -/
theorem test_witness_RenderIsAsciiDigits :
    render [true, false, true, true, false, true, false, false] = [0x31, 0x30, 0x31, 0x31, 0x30, 0x31, 0x30, 0x30] ∧
      0 < [true].length := by decide

/-- The first and last bit of one digest and the first of the next. -/
theorem test_witness_ExpansionBits : 0 < 260 ∧ 255 < 260 ∧ 256 < 260 := by decide

/-- Both lengths of the prefix law, at their boundary. -/
theorem test_witness_GenPrefixLaw :
    (exec (genOf false false) (seeded 64 []) = .next (after .genSha256 (seeded 64 [])) ∧
      exec (genOf false true) (seeded 64 []) = .next (after .genSha256X (seeded 64 [])) ∧
      (seeded 64 []).seedLen.toNat ≤ 64) ∧ 64 < (seeded 65 []).seedLen.toNat ∧
      (seeded 65 []).seedLen.toNat ≤ (seeded 65 []).cfg.maxSeed :=
  ⟨⟨rfl, rfl, by decide⟩, by decide, by decide⟩

/-- V17: two seeds equal below n and different beyond it. -/
theorem test_witness_GenIsDeterministic :
    (∀ i, i < (seeded 8 [0x2D]).seedLen.toNat →
      (seeded 8 [0x2D]).mem.bit .seed i = (seeded 8 [0xFFFFFF2D]).mem.bit .seed i) ∧
      (seeded 8 [0x2D]).mem ≠ (seeded 8 [0xFFFFFF2D]).mem ∧
      exec (genOf false false) (seeded 8 [0x2D]) = .next (after .genSha256 (seeded 8 [0x2D])) ∧
      exec (genOf false false) (seeded 8 [0xFFFFFF2D]) = .next (after .genSha256 (seeded 8 [0xFFFFFF2D])) :=
  ⟨by decide +kernel, by decide +kernel, rfl, rfl⟩

/-- A block of 64 bytes, and both ranges of the schedule. -/
theorem test_witness_ShaScheduleRecurrence :
    (List.replicate 64 (0x80 : Byte)).length = 64 ∧ 15 < 16 ∧ 16 ≤ 16 ∧ 63 < 64 := by decide

/-- The corner lanes of ρ and π. -/
theorem test_witness_KeccakRhoPiMovesLanes : 0 < 5 ∧ 4 < 5 := by decide

/-- The corner lanes of θ and χ. -/
theorem test_witness_KeccakThetaChiOnLanes : 0 < 5 ∧ 4 < 5 := by decide

/-- ENC at full lengths, and ENC.STRICT at equal ones. -/
theorem test_witness_EncWritesChainedMix :
    ((keyed 1024 0 1024 1).keyLen.toNat ≤ (keyed 1024 0 1024 1).cfg.maxKey ∧
      (keyed 1024 0 1024 1).msgLen.toNat ≤ (keyed 1024 0 1024 1).cfg.maxMsg ∧
      (keyed 1024 0 1024 1).keyLen = (keyed 1024 0 1024 1).msgLen) ∧
      (keyed 0 0 3 5).keyLen.toNat ≤ (keyed 0 0 3 5).cfg.maxKey := by decide +kernel

/-- DEC at full lengths, and DEC.STRICT at equal ones. -/
theorem test_witness_DecWritesDifferences :
    (keyed 1024 7 1024 1).keyLen.toNat ≤ (keyed 1024 7 1024 1).cfg.maxKey ∧
      (keyed 1024 7 1024 1).msgLen.toNat ≤ (keyed 1024 7 1024 1).cfg.maxMsg ∧
      (keyed 1024 7 1024 1).keyLen = (keyed 1024 7 1024 1).msgLen := by decide +kernel

/-- Each length one over its buffer. -/
theorem test_witness_CipherRangeFails :
    (keyed 1025 0 3 0).cfg.maxKey < (keyed 1025 0 3 0).keyLen.toNat ∧
      (keyed 3 0 1025 0).cfg.maxMsg < (keyed 3 0 1025 0).msgLen.toNat := by decide +kernel

/-- V28's lengths; and ENC on them. -/
theorem test_witness_StrictMismatchFails :
    ((keyed 3 5 4 5).keyLen.toNat ≤ (keyed 3 5 4 5).cfg.maxKey ∧
      (keyed 3 5 4 5).msgLen.toNat ≤ (keyed 3 5 4 5).cfg.maxMsg ∧ (keyed 3 5 4 5).keyLen ≠ (keyed 3 5 4 5).msgLen) ∧
      exec .enc (keyed 3 5 4 5) = .next (after .enc (keyed 3 5 4 5)) :=
  ⟨by decide +kernel, rfl⟩

/-- V20's operands, with message bit 0 flipped, message bit 3 flipped, and key bit 3 flipped. -/
theorem test_witness_EncDiffusionLaw :
    ((keyed 4 0 4 0xD).keyLen.toNat ≤ 1024 ∧ (keyed 4 0 4 0xD).cipherLen = 4 ∧
      (keyed 4 0 4 0xD).cfg = (keyed 4 8 4 0xD).cfg ∧
      exec .enc (keyed 4 0 4 0xD) = .next (after .enc (keyed 4 0 4 0xD))) ∧
      (∀ i, i < 4 → (keyed 4 0 4 0xC).mem.bit .key i = (keyed 4 0 4 0xD).mem.bit .key i) ∧
      (∀ i, i < 4 → (keyed 4 0 4 0xC).mem.bit .msg i = ((keyed 4 0 4 0xD).mem.bit .msg i ^^ decide (i = 0))) ∧
      (∀ i, i < 4 → (keyed 4 0 4 0x5).mem.bit .msg i = ((keyed 4 0 4 0xD).mem.bit .msg i ^^ decide (i = 3))) ∧
      ∀ i, i < 4 → (keyed 4 8 4 0xD).mem.bit .key i = ((keyed 4 0 4 0xD).mem.bit .key i ^^ decide (i = 3)) :=
  ⟨⟨by decide +kernel, by decide +kernel, rfl, rfl⟩, by decide +kernel, by decide +kernel, by decide +kernel,
    by decide +kernel⟩

/-- V40's operands, with ciphertext bit 3 flipped, and with key bit 0 flipped. -/
theorem test_witness_DecErrorPropagation :
    ((keyed 4 0 4 0xB).cipherLen = 4 ∧ exec .dec (keyed 4 0 4 0xB) = .next (after .dec (keyed 4 0 4 0xB))) ∧
      (∀ i, i < 4 → (keyed 4 0 4 0x3).mem.bit .msg i =
        ((keyed 4 0 4 0xB).mem.bit .msg i ^^ (!false && decide (i = 3)))) ∧
      (∀ i, i < 4 → (keyed 4 0 4 0x3).mem.bit .key i =
        ((keyed 4 0 4 0xB).mem.bit .key i ^^ (false && decide (i = 3)))) ∧
      (∀ i, i < 4 → (keyed 4 1 4 0xB).mem.bit .key i =
        ((keyed 4 0 4 0xB).mem.bit .key i ^^ (true && decide (i = 0)))) ∧
      ∀ i, i < 4 → (keyed 4 1 4 0xB).mem.bit .msg i =
        ((keyed 4 0 4 0xB).mem.bit .msg i ^^ (!true && decide (i = 0))) :=
  ⟨⟨by decide +kernel, rfl⟩, by decide +kernel, by decide +kernel, by decide +kernel, by decide +kernel⟩

/-- V45: the output of ENC, three bits long, copied to the message; then DEC. -/
theorem test_witness_RoundTripLaw :
    let s := keyed 3 7 5 0xD
    let t := after .enc s
    let u := keyed 3 7 3 0x4
    exec .enc s = .next t ∧ exec .dec u = .next (after .dec u) ∧ u.cfg = s.cfg ∧ u.keyLen = s.keyLen ∧
      (∀ k, k < s.keyLen.toNat → u.mem.bit .key k = s.mem.bit .key k) ∧ u.msgLen = t.outLen ∧
      ∀ k, k < t.outLen.toNat → u.mem.bit .msg k = t.mem.bit .out k :=
  ⟨rfl, rfl, rfl, rfl, by decide +kernel, by decide +kernel, by decide +kernel⟩

/-- A completion. -/
theorem test_witness_CtrlAndOvrDoNotMatter : exec .dec (keyed 4 0 4 5) = .next (after .dec (keyed 4 0 4 5)) := rfl

/-- Failures with each destination. -/
theorem test_witness_ErrorsArePrecise :
    (exec .genSha256X (seeded 257 []) = .next (after .genSha256X (seeded 257 [])) ∧
      (after .genSha256X (seeded 257 [])).err = true) ∧
      exec .encStrict (keyed 3 5 4 5) = .next (after .encStrict (keyed 3 5 4 5)) ∧
      (after .encStrict (keyed 3 5 4 5)).err = true :=
  ⟨⟨rfl, by decide +kernel⟩, rfl, by decide +kernel⟩

/-- Each code, and success. -/
theorem test_witness_ErrorCodesHaveTheirCauses :
    (after .genKeccakX (seeded 257 [])).errCode = 4 ∧ (after .dec (keyed 3 5 1025 5)).errCode = 4 ∧
      (after .genKeccak (seeded 65 [])).errCode = 1 ∧ (after .decStrict (keyed 3 5 4 5)).errCode = 2 ∧
      (after .clear (keyed 3 5 4 5)).errCode = 0 := by decide +kernel

/-- A GEN on either side of the length limit. -/
theorem test_witness_NoShortKey :
    exec (genOf true false) (seeded 65 []) = .next (after .genKeccak (seeded 65 [])) ∧
      (after .genKeccak (seeded 65 [])).err = true := ⟨rfl, by decide +kernel⟩

/-- A state that meets the invariant and is not the reset state: a block busy with GEN.SHA256 on V1's seed, OVR set. -/
theorem test_witness_StepKeepsInvariant :
    Inv (busyGen 3).setOvr ∧ step (busyGen 3).setOvr = .next (busyGen 3).setOvr.tick := by
  refine ⟨⟨⟨by decide, by decide, by decide⟩, ⟨by decide, ?_⟩, ⟨by decide, fun i _ h => ?_⟩,
    ⟨?_, by decide, by decide⟩⟩, rfl⟩
  · intro c hc
    have h : c ∈ [((0x100 : Nat), (0x2D : Byte))] := hc
    rw [List.mem_singleton] at h
    subst h
    exact ⟨.seed, by decide, by decide⟩
  · revert i
    decide +kernel
  · intro c hc
    injection hc with hc
    exact ⟨.genSha256, hc.symm, by decide⟩

/-- STATUS consistent with an error pending (V79), and a step that clears it. -/
theorem test_witness_StepKeepsStatusConsistent :
    let s := withHost (after .genKeccak (seeded 65 [])) [scriptClrst]
    StatusOk s ∧ step s = .next (busWrite 0x00C 0x0000000E (s.tick.setInbox [])) :=
  ⟨⟨by decide, by decide, by decide⟩, rfl⟩

/-- A step that writes ID (V72). -/
theorem test_witness_IdIsHardwired :
    step (withHost State.reset [scriptWr 0x000 (.lit 0xFFFFFFFF)]) = .next State.reset.tick := rfl

/-- BUSY set by an accept, DONE by a completion, ERR by an illegal word, OVR by a dropped write. -/
theorem test_witness_StatusBitsSetOnlyBy :
    (∃ t, step (withHost State.reset [scriptCmd .enc]) = .next t ∧ t.busy = true) ∧
      (∃ t, step (busyGen 0) = .next t ∧ (busyGen 0).done = false ∧ t.done = true) ∧
      (∃ t, step (withHost State.reset [scriptWr 0x008 (.lit 0)]) = .next t ∧ t.err = true) ∧
      ∃ t, step (withHost (busyGen 2) [scriptCmd .clear]) = .next t ∧ (busyGen 2).ovr = false ∧ t.ovr = true :=
  ⟨⟨_, rfl, rfl⟩, ⟨_, rfl, rfl, rfl⟩, ⟨_, rfl, rfl⟩, _, rfl, rfl, rfl⟩

/-- BUSY cleared by reset, and DONE, ERR and OVR by W1C. -/
theorem test_witness_StatusBitsClearedOnlyBy :
    (EngineOk (withHost (busyGen 2) [.reset]) ∧ ∃ t, step (withHost (busyGen 2) [.reset]) = .next t ∧ t.busy = false) ∧
      let s := withHost { State.reset with done := true, err := true, errCode := 3, ovr := true } [scriptClrst]
      EngineOk s ∧ ∃ t, step s = .next t ∧ t.done = false ∧ t.err = false ∧ t.ovr = false := by
  refine ⟨⟨⟨?_, by decide, by decide⟩, _, rfl, rfl⟩, ⟨?_, by decide, by decide⟩, _, rfl, rfl, rfl, rfl⟩
  · intro c hc
    injection hc with hc
    exact ⟨.genSha256, hc.symm, by decide⟩
  · intro c hc
    cases hc

/-- irq rising at an illegal-command report. -/
theorem test_witness_IrqChangesOnlyBy_illegal :
    let s := withHost { State.reset with irqEn := true } [scriptWr 0x008 (.lit 0)]
    illegalIsNext s ∧ ∃ t, step s = .next t ∧ t.irq = true :=
  ⟨⟨rfl, 0, [], ⟨by decide, _, _, rfl, by decide, rfl⟩, by decide⟩, _, rfl, rfl⟩

/-- irq rising at a completion (V86) and at a CTRL write while DONE = 1, and falling at an acknowledgement. -/
theorem test_witness_IrqChangesOnlyBy :
    (∃ t, step { busyGen 0 with irqEn := true } = .next t ∧ t.irq = true) ∧
      (∃ t, step (withHost { State.reset with done := true } [scriptWr 0x004 (.lit 1)]) = .next t ∧ t.irq = true) ∧
      ∃ t, step (withHost { State.reset with done := true, irqEn := true } [scriptClrst]) = .next t ∧ t.irq = false :=
  ⟨⟨_, rfl, rfl⟩, ⟨_, rfl, rfl⟩, _, rfl, rfl⟩

/-- Two steps of a busy block whose latency is two, the host writing to it (V82). -/
theorem test_witness_OperandsAreThoseAtAccept :
    let s := withHost (busyGen 2) [scriptWr 0x010 (.lit 3)]
    s.busy = true ∧ 2 ≤ s.wait ∧ HostOp.reset ∉ s.inbox ∧
      core.run 2 s = .next ((s.tick.setInbox []).setOvr.tick) := by
  refine ⟨rfl, by decide, by decide, rfl⟩

/-- A busy block whose host writes to it, and one whose host polls. -/
theorem test_witness_AcceptedCommandsComplete :
    ((withHost (busyGen 1) [scriptWr 0x010 (.lit 3)]).busy = true ∧
      HostOp.reset ∉ (withHost (busyGen 1) [scriptWr 0x010 (.lit 3)]).inbox ∧
      ∃ t, core.run ((busyGen 1).wait + 1) (withHost (busyGen 1) [scriptWr 0x010 (.lit 3)]) = .next t) ∧
      (withHost (busyGen 1) [.poll 0]).busy = true ∧
      ∀ op ∈ (withHost (busyGen 1) [.poll 0]).inbox, ∃ n, op = .poll n := by
  refine ⟨⟨rfl, by decide, _, rfl⟩, rfl, fun op h => ?_⟩
  have h' : op ∈ [HostOp.poll 0] := h
  exact ⟨0, List.mem_singleton.mp h'⟩

end Sys2Proof.Tests
end

section
/-! SUPPORT. The step when no completion is due, line by line of the host (00_scope.md R17, 20_memory.md R50). -/

namespace Sys2Proof.Machine

open Sys2Proof.Safety

/-! ### The host's turn -/

/-- The value of a line does not depend on the inbox or on the latency (R66). -/
@[simp] theorem hostValue_tick_setInbox (s : State) (l : List HostOp) (x : HostVal) :
    hostValue (s.tick.setInbox l) x = hostValue s x := by cases x <;> rfl

/-- A write line whose address is an aligned offset and whose value is bound is that write (R42, R47, R48). -/
theorem hostWrite_of_target (w : Width) (addr : HostAddr) (x : HostVal) (s : State) (off : Nat) (v : Word)
    (ht : busTarget w addr = .ok off) (hv : hostValue s x = some v) :
    hostWrite w addr x s = .next (busWrite off v s) := by
  simp only [hostWrite, ht, hv]

/-- A read line whose address is an aligned offset is that read, bound to the line's name (R42, R46, R49). -/
theorem hostRead_of_target (w : Width) (addr : HostAddr) (n : Nat) (s : State) (off : Nat)
    (ht : busTarget w addr = .ok off) :
    hostRead w addr n s = .next ((busRead off s).2.bind n (busRead off s).1) := by
  simp only [hostRead, ht]

/-! ### The step -/

/-- With no completion due and no line for the host, only latency passes (R17). -/
theorem step_of_no_line (s : State) (hd : s.due = none) (hi : s.inbox = []) : step s = .next s.tick := by
  rw [step_of_not_due s hd, hostTurn, hi]

/-- With no completion due, the host's next line is carried out with the line consumed and the latency one less
(R17, R50). -/
theorem step_of_line (s : State) (op : HostOp) (rest : List HostOp) (hd : s.due = none) (hi : s.inbox = op :: rest) :
    step s = hostOp op (s.tick.setInbox rest) := by
  rw [step_of_not_due s hd, hostTurn, hi]

/-- The step of a write line is `busWrite` (R47, R48). -/
theorem step_of_writeIsNext (s : State) (off : Nat) (v : Word) (rest : List HostOp) (h : writeIsNext s off v rest) :
    step s = .next (busWrite off v (s.tick.setInbox rest)) := by
  obtain ⟨hd, addr, x, hi, ht, hv⟩ := h
  rw [step_of_line s _ rest hd hi]
  exact hostWrite_of_target .word addr x _ off v ht (by rwa [hostValue_tick_setInbox])

/-- The step of a read line is `busRead`, its answer bound to the line's name (R46, R49). -/
theorem step_of_readIsNext (s : State) (off n : Nat) (rest : List HostOp) (h : readIsNext s off n rest) :
    step s = .next ((busRead off (s.tick.setInbox rest)).2.bind n (busRead off (s.tick.setInbox rest)).1) := by
  obtain ⟨hd, addr, hi, ht⟩ := h
  rw [step_of_line s _ rest hd hi]
  exact hostRead_of_target .word addr n _ off ht

/-- Settles O11: one lemma for each line the host can have next. -/
theorem stepRunsHostLine : Obligations.StepRunsHostLine :=
  ⟨step_of_no_line, step_of_writeIsNext, step_of_readIsNext⟩

end Sys2Proof.Machine
end

section
/-! SUPPORT. The accept of a command word finds a command exactly when the formula of 30_encoding.md R61 holds of it:
each mask-and-match of the formula is read off the fields of the word. -/

namespace Sys2Proof

theorem fieldOp_and (v m : Word) : fieldOp (v &&& m) = fieldOp v &&& fieldOp m := BitVec.extractLsb'_and

theorem fieldRes_and (v m : Word) : fieldRes (v &&& m) = fieldRes v &&& fieldRes m := BitVec.extractLsb'_and

/-- Two words are the same exactly when their five fields are. -/
theorem word_eq_iff_fields (v w : Word) :
    v = w ↔ fieldOp v = fieldOp w ∧ fieldHsel v = fieldHsel w ∧ fieldXtnd v = fieldXtnd w ∧
      fieldStrict v = fieldStrict w ∧ fieldRes v = fieldRes w := by
  refine ⟨by rintro rfl; simp, ?_⟩
  rintro ⟨hop, hhsel, hxtnd, hstrict, hres⟩
  exact word_ext_fields v w hop hhsel hxtnd hstrict hres

/-- A masked word by fields: a mask of all ones over OP and RES leaves those, and each mode bit is compared where the
mask has it. -/
theorem masked_eq_iff_fields (v m k : Word) (hop : fieldOp m = 15) (hres : fieldRes m = 0x1FFFFFF) :
    v &&& m = k ↔ fieldOp v = fieldOp k ∧ (fieldHsel v && fieldHsel m) = fieldHsel k ∧
      (fieldXtnd v && fieldXtnd m) = fieldXtnd k ∧ (fieldStrict v && fieldStrict m) = fieldStrict k ∧
      fieldRes v = fieldRes k := by
  have hop' : fieldOp v &&& 15 = fieldOp v := BitVec.and_allOnes
  have hres' : fieldRes v &&& 0x1FFFFFF = fieldRes v := BitVec.and_allOnes
  rw [word_eq_iff_fields, fieldOp_and, fieldRes_and, hop, hres, hop', hres']
  simp only [fieldHsel, fieldXtnd, fieldStrict, BitVec.getLsbD_and]

/-- The match of GEN in R61: OP is 1, STRICT and RES are 0. -/
theorem genMask_iff (v : Word) :
    v &&& 0xFFFFFFCF#32 = 0x00000001#32 ↔ fieldOp v = 1 ∧ fieldStrict v = false ∧ fieldRes v = 0 := by
  rw [masked_eq_iff_fields v _ _ (by decide) (by decide)]
  simp [fieldOp, fieldHsel, fieldXtnd, fieldStrict, fieldRes]

/-- The match of a cipher command in R61: its OP, and HSEL, XTND and RES are 0. -/
theorem cipherMask_iff (v k : Word) (hk : k = 2 ∨ k = 3) :
    v &&& 0xFFFFFFBF#32 = k ↔
      fieldOp v = fieldOp k ∧ fieldHsel v = false ∧ fieldXtnd v = false ∧ fieldRes v = 0 := by
  rw [masked_eq_iff_fields v _ _ (by decide) (by decide)]
  rcases hk with rfl | rfl <;> simp [fieldOp, fieldHsel, fieldXtnd, fieldStrict, fieldRes]

/-- The match of CLEAR in R61: OP is 4 and every other field is 0. -/
theorem clearWord_iff (v : Word) :
    v = 0x00000004#32 ↔
      fieldOp v = 4 ∧ fieldHsel v = false ∧ fieldXtnd v = false ∧ fieldStrict v = false ∧ fieldRes v = 0 := by
  rw [word_eq_iff_fields]
  simp [fieldOp, fieldHsel, fieldXtnd, fieldStrict, fieldRes]

/-- The availability conditions of GEN are those of its mode bits (R61). -/
theorem wellFormed_genOf (p : Params) (hsel xtnd : Bool) :
    (genOf hsel xtnd).wellFormed p =
      ((!hsel || p.hashes.has .keccak256) && (hsel || p.hashes.has .sha256) && (!xtnd || p.extend)) := by
  cases hsel <;> cases xtnd <;> simp [genOf, Instr.wellFormed, Instr.hashPresent, Instr.extendPresent, Instr.hash?,
    Instr.needsExtend]

/-- The availability conditions of the other commands are empty (R61). -/
@[simp] theorem wellFormed_encOf (p : Params) (strict : Bool) : (encOf strict).wellFormed p = true := by
  cases strict <;> rfl

@[simp] theorem wellFormed_decOf (p : Params) (strict : Bool) : (decOf strict).wellFormed p = true := by
  cases strict <;> rfl

@[simp] theorem wellFormed_clear (p : Params) : Instr.clear.wellFormed p = true := rfl

/-- R61's formula by fields. -/
theorem legalWord_iff_fields (p : Params) (v : Word) :
    legalWord p v = true ↔
      (fieldOp v = 1 ∧ fieldStrict v = false ∧ fieldRes v = 0 ∧
        (genOf (fieldHsel v) (fieldXtnd v)).wellFormed p = true) ∨
      (fieldOp v = 2 ∧ fieldHsel v = false ∧ fieldXtnd v = false ∧ fieldRes v = 0) ∨
      (fieldOp v = 3 ∧ fieldHsel v = false ∧ fieldXtnd v = false ∧ fieldRes v = 0) ∨
      (fieldOp v = 4 ∧ fieldHsel v = false ∧ fieldXtnd v = false ∧ fieldStrict v = false ∧ fieldRes v = 0) := by
  have henc := cipherMask_iff v 2 (.inl rfl)
  have hdec := cipherMask_iff v 3 (.inr rfl)
  rw [show fieldOp 2 = 2 by decide] at henc
  rw [show fieldOp 3 = 3 by decide] at hdec
  rw [wellFormed_genOf, ← henc, ← hdec, ← clearWord_iff]
  simp only [legalWord, Bool.or_eq_true, Bool.and_eq_true, beq_iff_eq, genMask_iff, fieldHsel, fieldXtnd, and_assoc,
    or_assoc]
  rfl

/-- Decoding by fields: which words are a command's, and which command (R58, R60). -/
theorem decodeWord_ok_iff_fields (v : Word) (i : Instr) :
    decodeWord v = .ok i ↔
      (fieldOp v = 1 ∧ fieldStrict v = false ∧ fieldRes v = 0 ∧ genOf (fieldHsel v) (fieldXtnd v) = i) ∨
      (fieldOp v = 2 ∧ fieldHsel v = false ∧ fieldXtnd v = false ∧ fieldRes v = 0 ∧ encOf (fieldStrict v) = i) ∨
      (fieldOp v = 3 ∧ fieldHsel v = false ∧ fieldXtnd v = false ∧ fieldRes v = 0 ∧ decOf (fieldStrict v) = i) ∨
      (fieldOp v = 4 ∧ fieldHsel v = false ∧ fieldXtnd v = false ∧ fieldStrict v = false ∧ fieldRes v = 0 ∧
        .clear = i) := by
  unfold decodeWord
  by_cases h1 : fieldOp v = 1#4
  · simp [h1, ite_eq_iff]
  by_cases h2 : fieldOp v = 2#4
  · simp [h2, ite_eq_iff, and_assoc]
  by_cases h3 : fieldOp v = 3#4
  · simp [h3, ite_eq_iff, and_assoc]
  by_cases h4 : fieldOp v = 4#4
  · simp [h4, ite_eq_iff, and_assoc]
  · simp [h1, h2, h3, h4]

/-- R61: the accept finds a command exactly when the formula of the rule holds of the word. -/
theorem acceptWord_ok_iff_legalWord (p : Params) (v : Word) :
    (∃ i, acceptWord p v = .ok i) ↔ legalWord p v = true := by
  simp only [acceptWord_ok_iff, decodeWord_ok_iff_fields, legalWord_iff_fields, or_and_right, exists_or, and_assoc,
    exists_and_left, exists_eq_left', wellFormed_encOf, wellFormed_decOf, wellFormed_clear, and_true]

/-- A word the accept finds a command in is legal. -/
theorem legalWord_of_acceptWord_ok (p : Params) (v : Word) (i : Instr) (h : acceptWord p v = .ok i) :
    legalWord p v = true := (acceptWord_ok_iff_legalWord p v).mp ⟨i, h⟩

/-- A word the accept rejects is illegal. -/
theorem not_legalWord_of_acceptWord_error (p : Params) (v : Word) (e : DecodeError)
    (h : acceptWord p v = .error e) : legalWord p v = false := by
  rw [Bool.eq_false_iff, ne_eq, ← acceptWord_ok_iff_legalWord, h]
  rintro ⟨i, hi⟩
  cases hi

end Sys2Proof
end

section
/-! SUPPORT. What a step does to the block, once: a completion, or one of the events that the host's line can be. -/

namespace Sys2Proof.Machine

open Sys2Proof.Safety

/-! ### The host's turn, apart from what its line does to the block -/

/-- One step of latency has passed, and the host's own data (the draw count, its further lines and its names) are as
given (log entries 3 to 6). -/
def State.turn (s : State) (d : Nat) (l : List HostOp) (ns : List (Nat × Word)) : State :=
  { s with wait := s.wait - 1, drawn := d, inbox := l, names := ns }

section Turn

variable (s : State) (d : Nat) (l : List HostOp) (ns : List (Nat × Word))

@[simp] theorem State.turn_cfg : (s.turn d l ns).cfg = s.cfg := rfl
@[simp] theorem State.turn_irqEn : (s.turn d l ns).irqEn = s.irqEn := rfl
@[simp] theorem State.turn_done : (s.turn d l ns).done = s.done := rfl
@[simp] theorem State.turn_err : (s.turn d l ns).err = s.err := rfl
@[simp] theorem State.turn_ovr : (s.turn d l ns).ovr = s.ovr := rfl
@[simp] theorem State.turn_errCode : (s.turn d l ns).errCode = s.errCode := rfl
@[simp] theorem State.turn_outLen : (s.turn d l ns).outLen = s.outLen := rfl
@[simp] theorem State.turn_mem : (s.turn d l ns).mem = s.mem := rfl
@[simp] theorem State.turn_eng : (s.turn d l ns).eng = s.eng := rfl
@[simp] theorem State.turn_wait : (s.turn d l ns).wait = s.wait - 1 := rfl
@[simp] theorem State.turn_inbox : (s.turn d l ns).inbox = l := rfl
@[simp] theorem State.turn_busy : (s.turn d l ns).busy = s.busy := rfl
@[simp] theorem State.turn_len (b : Buf) : (s.turn d l ns).len b = s.len b := by cases b <;> rfl

end Turn

/-- What the host's line does to the block in the step from `s`, where `u` is `s` with the turn passed: nothing, or one
of the events of R24, R36, R47 and R61 with the cells it writes. -/
inductive HostEffect (s u : State) : State → Prop
  | nothing : HostEffect s u u
  | reset (rest : List HostOp) (h : resetIsNext s rest) : HostEffect s u u.resetBlock
  | ctrlWritten (v : Word) (rest : List HostOp) (h : writeIsNext s 0x004 v rest) :
      HostEffect s u (u.setIrqEn (v.getLsbD 0))
  | acknowledged (v : Word) (rest : List HostOp) (h : writeIsNext s 0x00C v rest) : HostEffect s u (u.acknowledge v)
  | dropped (h : droppedIsNext s) : HostEffect s u u.setOvr
  | accepted (i : Instr) (latency : Nat) (h : acceptIsNext s) (hw : i.wellFormed s.cfg = true) :
      HostEffect s u (u.accept i latency)
  | reported (h : illegalIsNext s) : HostEffect s u u.reportIllegal
  | lengthWritten (b : Buf) (n : BitVec 16) (hidle : s.busy = false) (hb : b ≠ .out) : HostEffect s u (u.setLen b n)
  | wordWritten (b : Buf) (w : Nat) (v : Word) (hidle : s.busy = false) (hb : b ≠ .out)
      (hw : 32 * w < b.size s.cfg) : HostEffect s u (u.setMem (u.mem.writeWord (b.base + 4 * w) v))

/-- What the write to CMD of an idle block does: an accept, or the report of an illegal word (R61, R105). -/
theorem writeCmd_effect (s : State) (v : Word) (rest : List HostOp) (hidle : s.busy = false)
    (h : writeIsNext s 0x008 v rest) :
    ∃ d, HostEffect s (s.turn d rest s.names) (writeCmd v (s.tick.setInbox rest)) := by
  rcases writeCmd_cases v (s.tick.setInbox rest) with ⟨i, hok, ht⟩ | ⟨e, herr, ht⟩
  · have hlegal : legalWord s.cfg v = true := legalWord_of_acceptWord_ok s.cfg v i hok
    have hw : i.wellFormed s.cfg = true := ((acceptWord_ok_iff s.cfg v i).mp hok).2
    exact ⟨s.drawn + 1, ht ▸ .accepted i _ ⟨hidle, v, rest, h, hlegal⟩ hw⟩
  · have hillegal : legalWord s.cfg v = false := not_legalWord_of_acceptWord_error s.cfg v e herr
    exact ⟨s.drawn, ht ▸ .reported ⟨hidle, v, rest, h, hillegal⟩⟩

/-- What a write line does (R47, R48). -/
theorem busWrite_effect (s : State) (off : Nat) (v : Word) (rest : List HostOp) (h : writeIsNext s off v rest) :
    ∃ d, HostEffect s (s.turn d rest s.names) (busWrite off v (s.tick.setInbox rest)) := by
  rcases busWrite_cases off v (s.tick.setInbox rest) with
    ht | ⟨rfl, ht⟩ | ⟨rfl, ht⟩ | ⟨hbusy, ht, hloc⟩ | ⟨hidle, rfl, ht⟩ | ⟨hidle, b, hb, hloc, ht⟩ |
    ⟨hidle, b, w, hb, hloc, ht⟩ <;> rw [ht]
  · exact ⟨s.drawn, .nothing⟩
  · exact ⟨s.drawn, .ctrlWritten v rest h⟩
  · exact ⟨s.drawn, .acknowledged v rest h⟩
  · exact ⟨s.drawn, .dropped ⟨hbusy, off, v, rest, h, hloc⟩⟩
  · exact writeCmd_effect s v rest hidle h
  · exact ⟨s.drawn, .lengthWritten b _ hidle hb⟩
  · exact ⟨s.drawn, .wordWritten b w v hidle hb (locOf_buf_implemented s.cfg off b w hloc)⟩

/-- One turn of POLL does nothing to the block, and leaves no line that was not there (R66). -/
theorem hostPoll_eq_turn (s : State) (n : Nat) (rest : List HostOp) (hi : s.inbox = .poll n :: rest) :
    ∃ l ns, l ⊆ s.inbox ∧ hostPoll n (s.tick.setInbox rest) = s.turn s.drawn l ns := by
  unfold hostPoll
  split
  · exact ⟨.poll n :: rest, _, hi ▸ List.Subset.refl _, rfl⟩
  · exact ⟨rest, _, hi ▸ List.subset_cons_self _ _, rfl⟩

/-- A read line does nothing to the block (R46, R49). -/
theorem busRead_bind_eq_turn (s : State) (off n : Nat) (rest : List HostOp) (v : Word) :
    ∃ d ns, (busRead off (s.tick.setInbox rest)).2.bind n v = s.turn d rest ns := by
  rcases busRead_state off (s.tick.setInbox rest) with h | ⟨_, h⟩ <;> rw [h]
  · exact ⟨s.drawn, _, rfl⟩
  · exact ⟨s.drawn + 1, _, rfl⟩

/-- Every step that answers a next state is a completion, or a turn of the host with one effect on the block; and the
host's lines afterwards were there before. -/
theorem step_effect {s t : State} (h : step s = .next t) :
    (∃ i, s.due = some i ∧ exec i s = .next t) ∨
    ∃ d l ns, s.due = none ∧ l ⊆ s.inbox ∧ HostEffect s (s.turn d l ns) t := by
  rcases step_cases s t h with
    ⟨i, hd, he⟩ | ⟨hd, _, rfl⟩ | ⟨hd, rest, hi, rfl⟩ | ⟨hd, n, rest, hi, rfl⟩ | ⟨hd, addr, n, rest, off, hi, _, rfl⟩ |
    ⟨hd, addr, x, rest, off, v, hi, htarget, hv, rfl⟩
  · exact .inl ⟨i, hd, he⟩
  · exact .inr ⟨s.drawn, s.inbox, s.names, hd, List.Subset.refl _, .nothing⟩
  · exact .inr ⟨s.drawn, rest, s.names, hd, hi ▸ List.subset_cons_self _ _, .reset rest ⟨hd, hi⟩⟩
  · obtain ⟨l, ns, hl, ht⟩ := hostPoll_eq_turn s n rest hi
    exact .inr ⟨s.drawn, l, ns, hd, hl, ht ▸ .nothing⟩
  · obtain ⟨d, ns, ht⟩ := busRead_bind_eq_turn s off n rest (busRead off (s.tick.setInbox rest)).1
    exact .inr ⟨d, rest, ns, hd, hi ▸ List.subset_cons_self _ _, ht ▸ .nothing⟩
  · obtain ⟨d, heffect⟩ := busWrite_effect s off v rest ⟨hd, addr, x, hi, htarget, hv⟩
    exact .inr ⟨d, rest, s.names, hd, hi ▸ List.subset_cons_self _ _, heffect⟩

end Sys2Proof.Machine
end

section
/-! SUPPORT. What every completion does to the block, once: it writes result vectors no longer than their buffers, and
ends in success or in `raise Error` (40_hash_expander.md R67, 41_diffusion_encode.md R91, 43_control.md R99). -/

namespace Sys2Proof.Machine

/-! ### The lengths of the results -/

theorem expandN_length_le (h : Hash) (b : List Byte) (l : Nat) : (expandN h b l).length ≤ l :=
  List.length_take_le _ _

@[simp] theorem chainSteps_length (is : List Nat) (x : List Bool) : (is.foldl chainStep x).length = x.length := by
  induction is generalizing x with
  | nil => rfl
  | cons i is ih => rw [List.foldl_cons, ih, chainStep, List.length_set]

@[simp] theorem State.vec_length (s : State) (b : Buf) : (s.vec b).length = (s.len b).toNat := Memory.vec_length _ _ _

/-- ENC works on as many bits as the shorter of its operands has (R91). -/
theorem encVec_length (key msg : List Bool) : (encVec key msg).length = min key.length msg.length := by
  simp only [encVec, xorBits, forwardChain, List.length_zipWith, chainSteps_length, List.length_take]
  omega

/-- DEC works on as many bits as the shorter of its operands has (R95). -/
theorem decVec_length (key msg : List Bool) : (decVec key msg).length = min key.length msg.length := by
  simp only [decVec, xorBits, backwardChain, List.length_zipWith, chainSteps_length]
  omega

/-! ### The end of a completion -/

/-- `u` is `s` with some result vectors written (R57), each within the length it is given and that within its
buffer. -/
inductive ResultsWritten (s : State) : State → Prop
  | none : ResultsWritten s s
  | write {u : State} (b : Buf) (v : List Bool) (n : Nat) (hv : v.length ≤ n) (hn : n ≤ b.size s.cfg)
      (h : ResultsWritten s u) : ResultsWritten s (u.writeResult b v n)

/-- A completion has ended: the result vectors are written, then it succeeds or raises an error (R67, R101). -/
def CommandEnd (s t : State) : Prop := ∃ u, ResultsWritten s u ∧ (t = u.succeed ∨ ∃ e, t = u.raiseError e)

theorem ResultsWritten.clear {s u : State} (b : Buf) (h : ResultsWritten s u) : ResultsWritten s (u.clearDest b) :=
  .write b [] 0 (Nat.le_refl 0) (Nat.zero_le _) h

theorem failCommand_commandEnd (s : State) (b : Buf) (e : ErrorCode) : CommandEnd s (s.failCommand b e) :=
  ⟨s.clearDest b, .clear b .none, .inr ⟨e, rfl⟩⟩

theorem writeResult_commandEnd (s : State) (b : Buf) (v : List Bool) (n : Nat) (hv : v.length ≤ n)
    (hn : n ≤ b.size s.cfg) : CommandEnd s (s.writeResult b v n).succeed :=
  ⟨s.writeResult b v n, .write b v n hv hn .none, .inl rfl⟩

theorem genResult_commandEnd (h : Hash) (xtnd : Bool) (s : State) : CommandEnd s (genResult h xtnd s) := by
  rcases genResult_cases h xtnd s with ⟨_, ht⟩ | ⟨_, _, _, ht⟩ | ⟨hseed, _, ht⟩ <;> rw [ht]
  · exact failCommand_commandEnd s _ _
  · exact failCommand_commandEnd s _ _
  · have hn : 4 * s.seedLen.toNat ≤ s.cfg.maxKey := by rw [Params.maxKey_eq]; omega
    exact writeResult_commandEnd s _ _ _ (expandN_length_le _ _ _) hn

theorem cipherResult_commandEnd (f : List Bool → List Bool → List Bool) (strict : Bool) (s : State)
    (hf : ∀ key msg, (f key msg).length = min key.length msg.length) : CommandEnd s (cipherResult f strict s) := by
  rcases cipherResult_cases f strict s with ⟨_, ht⟩ | ⟨_, _, _, ht⟩ | ⟨⟨_, hmsg⟩, _, ht⟩ <;> rw [ht]
  · exact failCommand_commandEnd s _ _
  · exact failCommand_commandEnd s _ _
  · have hv : (f (s.vec .key) (s.vec .msg)).length ≤ s.cipherLen := by
      rw [hf, State.vec_length, State.vec_length]; rfl
    exact writeResult_commandEnd s _ _ _ hv ((Nat.min_le_right _ _).trans hmsg)

/-- Every completion ends so (R37). -/
theorem exec_commandEnd {i : Instr} {s t : State} (h : exec i s = .next t) : CommandEnd s t := by
  rcases exec_cases i s t h with ⟨hsel, x, _, rfl⟩ | ⟨f, st, hf, rfl⟩ | ⟨_, rfl⟩
  · exact genResult_commandEnd _ x s
  · rcases hf with ⟨_, rfl⟩ | ⟨_, rfl⟩
    · exact cipherResult_commandEnd encVec st s encVec_length
    · exact cipherResult_commandEnd decVec st s decVec_length
  · exact ⟨_, .clear .out (.clear .msg (.clear .key (.clear .seed .none))), .inl rfl⟩

/-! ### What a completion leaves -/

/-- What writing results leaves unchanged. -/
theorem ResultsWritten.frame {s u : State} (h : ResultsWritten s u) :
    u.cfg = s.cfg ∧ u.irqEn = s.irqEn ∧ u.ovr = s.ovr := by
  induction h with
  | none => exact ⟨rfl, rfl, rfl⟩
  | write b v n hv hn h ih => simpa using ih

/-- A completion leaves the part and CTRL and OVR (R22, R28), and ENG idle with DONE set and no latency left (R37). -/
theorem CommandEnd.frame {s t : State} (h : CommandEnd s t) :
    t.cfg = s.cfg ∧ t.irqEn = s.irqEn ∧ t.ovr = s.ovr ∧ t.eng = .idle ∧ t.wait = 0 ∧ t.done = true := by
  obtain ⟨u, hu, rfl | ⟨e, rfl⟩⟩ := h
  all_goals
    obtain ⟨hcfg, hirq, hovr⟩ := hu.frame
    exact ⟨hcfg, hirq, hovr, rfl, rfl, rfl⟩

end Sys2Proof.Machine
end

section
/-! SUPPORT. STATUS stays consistent (10_state.md R26, R27): at each end of a command and over each effect of a host's
line. -/

namespace Sys2Proof.Safety

open Sys2Proof.Machine

theorem StatusOk.congr {s t : State} (h : StatusOk s) (hdone : t.done = s.done) (hbusy : t.busy = s.busy)
    (herr : t.err = s.err) (hcode : t.errCode = s.errCode) : StatusOk t := by
  constructor
  · rw [hdone, hbusy]; exact h.doneIdle
  · rw [herr, hcode]; exact h.codeZero
  · rw [herr, hcode]; exact h.codeKnown

theorem statusOk_succeed (u : State) : StatusOk u.succeed := ⟨by simp, by simp, by simp⟩

theorem statusOk_raiseError (u : State) (e : ErrorCode) : StatusOk (u.raiseError e) :=
  ⟨by simp, by simp, by cases e <;> simp [ErrorCode.code]⟩

/-- The end of a command leaves STATUS consistent, whatever it was (R67, R101). -/
theorem statusOk_of_commandEnd {s t : State} (h : CommandEnd s t) : StatusOk t := by
  obtain ⟨u, _, rfl | ⟨e, rfl⟩⟩ := h
  · exact statusOk_succeed u
  · exact statusOk_raiseError u e

/-- Acknowledging DONE or ERR keeps STATUS consistent: ERR and ERRCODE go together (R47, R110). -/
theorem StatusOk.acknowledge {u : State} (h : StatusOk u) (v : Word) : StatusOk (u.acknowledge v) := by
  constructor
  · intro hdone
    have hdone' : u.done = true := by simp_all
    exact h.doneIdle hdone'
  · have := h.codeZero
    cases hv : v.getLsbD 2 <;> simp_all
  · have := h.codeKnown
    cases hv : v.getLsbD 2 <;> simp_all

/-- Every effect of a host's line keeps STATUS consistent. -/
theorem StatusOk.hostEffect {s u t : State} (h : StatusOk u) (heffect : HostEffect s u t) : StatusOk t := by
  cases heffect with
  | nothing => exact h
  | reset => exact ⟨by simp, by simp, by simp⟩
  | acknowledged v => exact h.acknowledge v
  | accepted => exact ⟨by simp, by simp, by simp⟩
  | reported => exact ⟨by simp, by simp, by simp⟩
  | ctrlWritten | dropped | lengthWritten | wordWritten => exact h.congr (by simp) (by simp) (by simp) (by simp)

/-- Settles O51: a completion makes STATUS consistent, and every effect of a host's line keeps it so. -/
theorem stepKeepsStatusConsistent : Obligations.StepKeepsStatusConsistent := by
  intro s t h hstep
  rcases step_effect hstep with ⟨i, _, hexec⟩ | ⟨d, l, ns, _, _, heffect⟩
  · exact statusOk_of_commandEnd (exec_commandEnd hexec)
  · have hturn : StatusOk (s.turn d l ns) := h.congr rfl rfl rfl rfl
    exact hturn.hostEffect heffect

end Sys2Proof.Safety
end

section
/-! SUPPORT. The machine's invariant (10_state.md R26, R27, R32, R34, 20_memory.md R45, R57): each part of it over a
write of results, over each end of a command, and over each effect of a host's line. -/

namespace Sys2Proof.Safety

open Sys2Proof.Machine

/-! ### The buffers -/

/-- Bytes stored inside one implemented buffer keep the canonical form, and list nothing outside the buffers (R45). -/
theorem MemOk.writeBytes {s t : State} (h : MemOk s) (b : Buf) (a : Nat) (bs : List Byte) (hcfg : t.cfg = s.cfg)
    (hmem : t.mem = s.mem.writeBytes a bs) (hlow : b.base ≤ a) (hhigh : a + bs.length ≤ b.base + b.size s.cfg / 8) :
    MemOk t := by
  constructor
  · rw [hmem]
    exact Memory.wf_writeBytes bs s.mem a h.canonical
  · intro c hc
    rw [hmem] at hc
    rw [hcfg]
    rcases Memory.mem_writeBytes bs s.mem a c hc with hin | hold
    · exact ⟨b, by omega, by omega⟩
    · exact h.inBuffers c hold

theorem MemOk.congr {s t : State} (h : MemOk s) (hcfg : t.cfg = s.cfg) (hmem : t.mem = s.mem) : MemOk t := by
  constructor
  · rw [hmem]; exact h.canonical
  · rw [hmem, hcfg]; exact h.inBuffers

theorem memOk_of_empty {t : State} (hmem : t.mem = []) : MemOk t := by
  constructor <;> simp [hmem]

/-- A command's result keeps the buffers in form (R57). -/
theorem MemOk.writeResult {u : State} (h : MemOk u) (b : Buf) (v : List Bool) (n : Nat) :
    MemOk (u.writeResult b v n) :=
  h.writeBytes b b.base (packBytes (b.size u.cfg / 8) v) (by simp) (State.writeResult_mem u b v n) (Nat.le_refl _)
    (by rw [packBytes_length])

/-! ### OUT_LEN and OUT_BUF -/

theorem OutOk.congr {s t : State} (h : OutOk s) (hcfg : t.cfg = s.cfg) (hlen : t.outLen = s.outLen)
    (hbits : ∀ i, i < s.cfg.maxMsg → t.mem.bit .out i = s.mem.bit .out i) : OutOk t := by
  constructor
  · rw [hlen, hcfg]; exact h.bounded
  · intro i hlow hhigh
    rw [hlen] at hlow
    rw [hcfg] at hhigh
    rw [hbits i hhigh]
    exact h.clear i hlow hhigh

theorem bit_nil (b : Buf) (i : Nat) : Memory.bit [] b i = false := by simp [Memory.bit, Memory.unlisted]

theorem outOk_of_empty {t : State} (hlen : t.outLen = 0) (hmem : t.mem = []) : OutOk t := by
  constructor
  · simp [hlen]
  · intro i _ _
    rw [hmem, bit_nil]

/-- A result written to OUT names no more bits than OUT_BUF has, and leaves 0 beyond them (R32, R57). -/
theorem outOk_writeResult_out (u : State) (v : List Bool) (n : Nat) (hv : v.length ≤ n) (hn : n ≤ u.cfg.maxMsg) :
    OutOk (u.writeResult .out v n) := by
  have hsize : Buf.size u.cfg .out = u.cfg.maxMsg := rfl
  have hsmall : u.cfg.maxMsg ≤ 2048 := Buf.size_le .out u.cfg
  have hlen : (u.writeResult .out v n).outLen.toNat = n := by
    rw [← State.len_out, State.writeResult_len, if_pos rfl, BitVec.toNat_ofNat]
    omega
  constructor
  · rw [hlen, State.writeResult_cfg]; exact hn
  · intro i hlow hhigh
    rw [hlen] at hlow
    rw [State.writeResult_cfg] at hhigh
    rw [State.writeResult_mem, Memory.bit_writeVec u.cfg u.mem .out v i hhigh]
    exact List.getD_eq_default _ _ (hv.trans hlow)

/-- A command's result keeps OUT in form, be it its destination or not. -/
theorem OutOk.writeResult {u : State} (h : OutOk u) (b : Buf) (v : List Bool) (n : Nat) (hv : v.length ≤ n)
    (hn : n ≤ b.size u.cfg) : OutOk (u.writeResult b v n) := by
  by_cases hb : b = .out
  · subst hb
    exact outOk_writeResult_out u v n hv hn
  · have hb' : Buf.out ≠ b := Ne.symm hb
    have hlen : (u.writeResult b v n).outLen = u.outLen := by
      rw [← State.len_out, State.writeResult_len, if_neg hb', State.len_out]
    refine h.congr (by simp) hlen fun i hi => ?_
    have hsmall : u.cfg.maxMsg ≤ 2048 := Buf.size_le .out u.cfg
    rw [State.writeResult_mem]
    exact Memory.bit_writeVec_other u.cfg u.mem b .out v i hb' (by omega)

/-- A word stored in another buffer leaves the bits of OUT_BUF (R45). -/
theorem bit_out_writeWord (p : Params) (m : Memory) (b : Buf) (w : Nat) (v : Word) (hb : b ≠ .out)
    (hw : 32 * w < b.size p) (i : Nat) (hi : i < p.maxMsg) :
    (m.writeWord (b.base + 4 * w) v).bit .out i = m.bit .out i := by
  have hsmall : p.maxMsg ≤ 2048 := Buf.size_le .out p
  have hbsmall := b.size_le p
  have hapart := Buf.base_apart b .out hb
  apply Memory.bit_of_read
  rw [Memory.writeWord, Memory.read_writeBytes, bytesOfWord_length, if_neg (by omega)]

/-! ### ENG -/

theorem EngineOk.congr {s t : State} (h : EngineOk s) (hcfg : t.cfg = s.cfg) (heng : t.eng = s.eng)
    (herr : s.err = false → t.err = false) (hwait : s.wait = 0 → t.wait = 0) : EngineOk t := by
  have hbusy : t.busy = s.busy := State.busy_congr s t heng
  constructor
  · rw [heng, hcfg]; exact h.legal
  · rw [hbusy]; exact fun hb => herr (h.errFree hb)
  · rw [hbusy]; exact fun hb => hwait (h.waitIdle hb)

theorem engineOk_of_idle {t : State} (heng : t.eng = .idle) (hwait : t.wait = 0) : EngineOk t := by
  have hidle : t.busy = false := (State.not_busy_iff t).mpr heng
  constructor
  · intro c hc; rw [heng] at hc; cases hc
  · intro hb; rw [hidle] at hb; cases hb
  · exact fun _ => hwait

theorem engineOk_accept (u : State) (i : Instr) (latency : Nat) (hw : i.wellFormed u.cfg = true) :
    EngineOk (u.accept i latency) := by
  constructor
  · intro c hc
    injection hc with hc
    exact ⟨i, hc.symm, hw⟩
  · simp
  · simp

/-! ### The ends of a command -/

/-- Writing results keeps the buffers and OUT in form. -/
theorem resultsWritten_keeps {s u : State} (h : ResultsWritten s u) (hmem : MemOk s) (hout : OutOk s) :
    MemOk u ∧ OutOk u := by
  induction h with
  | none => exact ⟨hmem, hout⟩
  | write b v n hv hn hr ih =>
    obtain ⟨ihmem, ihout⟩ := ih
    obtain ⟨hcfg, _, _⟩ := hr.frame
    exact ⟨ihmem.writeResult b v n, ihout.writeResult b v n hv (hcfg ▸ hn)⟩

/-- The end of a command keeps the invariant (R37). -/
theorem Inv.commandEnd {s t : State} (h : Inv s) (hend : CommandEnd s t) : Inv t := by
  obtain ⟨_, _, _, heng, hwait, _⟩ := hend.frame
  have hstatus := statusOk_of_commandEnd hend
  obtain ⟨u, hu, ht⟩ := hend
  obtain ⟨hmem, hout⟩ := resultsWritten_keeps hu h.memory h.output
  rcases ht with rfl | ⟨e, rfl⟩
  all_goals
    exact ⟨hstatus, hmem.congr rfl rfl, hout.congr rfl rfl fun _ _ => rfl, engineOk_of_idle heng hwait⟩

/-! ### The effects of a host's line -/

/-- A host's line leaves the part, and of the buffers and OUT_LEN it leaves all, resets all, or stores one implemented
word of an input buffer (R47, R48, R120). -/
theorem hostEffect_buffers {s u t : State} (heffect : HostEffect s u t) :
    t.cfg = u.cfg ∧ (t.mem = u.mem ∧ t.outLen = u.outLen ∨ t.mem = [] ∧ t.outLen = 0 ∨
      t.outLen = u.outLen ∧ ∃ b w v, b ≠ Buf.out ∧ 32 * w < b.size s.cfg ∧
        t.mem = u.mem.writeWord (b.base + 4 * w) v) := by
  cases heffect with
  | reset => exact ⟨rfl, .inr (.inl ⟨rfl, rfl⟩)⟩
  | lengthWritten b n _ hb => exact ⟨by simp, .inl ⟨by simp, by simp [hb]⟩⟩
  | wordWritten b w v _ hb hw => exact ⟨rfl, .inr (.inr ⟨rfl, b, w, v, hb, hw, rfl⟩)⟩
  | nothing | ctrlWritten | acknowledged | dropped | accepted | reported => exact ⟨rfl, .inl ⟨rfl, rfl⟩⟩

/-- Every effect of a host's line keeps the buffers in form. -/
theorem MemOk.hostEffect {s u t : State} (h : MemOk u) (hcfg : u.cfg = s.cfg) (heffect : HostEffect s u t) :
    MemOk t := by
  obtain ⟨htcfg, ⟨hmem, _⟩ | ⟨hmem, _⟩ | ⟨_, b, w, v, _, hw, hmem⟩⟩ := hostEffect_buffers heffect
  · exact h.congr htcfg hmem
  · exact memOk_of_empty hmem
  · obtain ⟨k, hk, _, _⟩ := b.size_words s.cfg
    refine h.writeBytes b _ (bytesOfWord v) htcfg hmem (Nat.le_add_right _ _) ?_
    rw [bytesOfWord_length, hcfg]
    omega

/-- Every effect of a host's line keeps OUT in form. -/
theorem OutOk.hostEffect {s u t : State} (h : OutOk u) (hcfg : u.cfg = s.cfg) (heffect : HostEffect s u t) :
    OutOk t := by
  obtain ⟨htcfg, ⟨hmem, hlen⟩ | ⟨hmem, hlen⟩ | ⟨hlen, b, w, v, hb, hw, hmem⟩⟩ := hostEffect_buffers heffect
  · exact h.congr htcfg hlen fun i _ => by rw [hmem]
  · exact outOk_of_empty hlen hmem
  · refine h.congr htcfg hlen fun i hi => ?_
    rw [hmem]
    exact bit_out_writeWord u.cfg u.mem b w v hb (hcfg ▸ hw) i hi

/-- Every effect of a host's line keeps ENG in form. -/
theorem EngineOk.hostEffect {s u t : State} (h : EngineOk u) (hcfg : u.cfg = s.cfg) (heffect : HostEffect s u t) :
    EngineOk t := by
  cases heffect with
  | nothing => exact h
  | reset => exact engineOk_of_idle rfl rfl
  | reported => exact engineOk_of_idle rfl rfl
  | accepted i latency _ hw => exact engineOk_accept u i latency (hcfg ▸ hw)
  | acknowledged v => exact h.congr rfl rfl (fun he => by simp [he]) id
  | ctrlWritten | dropped | wordWritten => exact h.congr rfl rfl id id
  | lengthWritten => exact h.congr (by simp) (by simp) (by simp) (by simp)

/-- Every effect of a host's line keeps the invariant. -/
theorem Inv.hostEffect {s u t : State} (h : Inv u) (hcfg : u.cfg = s.cfg) (heffect : HostEffect s u t) : Inv t :=
  ⟨h.status.hostEffect heffect, h.memory.hostEffect hcfg heffect, h.output.hostEffect hcfg heffect,
    h.engine.hostEffect hcfg heffect⟩

/-- A turn of the host keeps the invariant, apart from what its line does. -/
theorem Inv.turn {s : State} (h : Inv s) (d : Nat) (l : List HostOp) (ns : List (Nat × Word)) :
    Inv (s.turn d l ns) :=
  ⟨h.status.congr rfl rfl rfl rfl, h.memory.congr rfl rfl, h.output.congr rfl rfl fun _ _ => rfl,
    h.engine.congr rfl rfl id fun hw => by simp [hw]⟩

/-- Settles O50: the end of a command keeps the invariant, and so does every effect of a host's line. -/
theorem stepKeepsInvariant : Obligations.StepKeepsInvariant := by
  intro s t h hstep
  rcases step_effect hstep with ⟨i, _, hexec⟩ | ⟨d, l, ns, _, _, heffect⟩
  · exact h.commandEnd (exec_commandEnd hexec)
  · have hcfg : (s.turn d l ns).cfg = s.cfg := rfl
    exact (h.turn d l ns).hostEffect hcfg heffect

/-- Settles O2: every cell is 0, and ENG is idle. -/
theorem resetMeetsInvariant : Obligations.ResetMeetsInvariant :=
  ⟨⟨by simp [State.reset], by simp [State.reset], by simp [State.reset]⟩, memOk_of_empty rfl, outOk_of_empty rfl rfl,
    engineOk_of_idle rfl rfl⟩

/-- Settles O52: neither the end of a command nor a host's line changes the part, and ID is read off the part. -/
theorem idIsHardwired : Obligations.IdIsHardwired := by
  intro s t hstep
  have hcfg : t.cfg = s.cfg := by
    rcases step_effect hstep with ⟨i, _, hexec⟩ | ⟨d, l, ns, _, _, heffect⟩
    · obtain ⟨hcfg, _⟩ := (exec_commandEnd hexec).frame
      exact hcfg
    · obtain ⟨hcfg, _⟩ := hostEffect_buffers heffect
      exact hcfg
  refine ⟨hcfg, ?_⟩
  show idValue t.cfg = idValue s.cfg
  rw [hcfg]

end Sys2Proof.Safety
end

section
/-! SUPPORT. The events that set and clear BUSY, DONE, ERR, OVR and irq (10_state.md R24, R36). -/

namespace Sys2Proof.Machine

open Sys2Proof.Safety

/-! ### A bit over a step -/

/-- A bit was `a` and is `b`: it is kept, or set by the event `set`, or cleared by the event `clear`. -/
inductive BitChange (a b : Bool) (set clear : Prop) : Prop
  | kept (h : b = a)
  | set (h : b = true) (hset : set)
  | cleared (h : b = false) (hclear : clear)

theorem BitChange.rises {a b : Bool} {set clear : Prop} (h : BitChange a b set clear) (ha : a = false)
    (hb : b = true) : set := by
  cases h with
  | kept h => rw [h, ha] at hb; cases hb
  | set _ hset => exact hset
  | cleared h => rw [h] at hb; cases hb

theorem BitChange.falls {a b : Bool} {set clear : Prop} (h : BitChange a b set clear) (ha : a = true)
    (hb : b = false) : clear := by
  cases h with
  | kept h => rw [h, ha] at hb; cases hb
  | set h => rw [h] at hb; cases hb
  | cleared _ hclear => exact hclear

variable {s t : State}

/-- A write to STATUS keeps a bit, or clears it as its W1C (R47). -/
theorem bitChange_acknowledge {v : Word} {rest : List HostOp} (hw : writeIsNext s 0x00C v rest) (a : Bool) (k : Nat)
    {set clear : Prop} (hclear : w1cIsNext s k → clear) : BitChange a (a && !v.getLsbD k) set clear := by
  cases hv : v.getLsbD k
  · exact .kept (Bool.and_true a)
  · exact .cleared (Bool.and_false a) (hclear ⟨v, rest, hw, hv⟩)

/-! ### The STATUS bits and irq over a step -/

theorem completionIsNext_of_due {i : Instr} (h : s.due = some i) : completionIsNext s := by
  rw [completionIsNext, h]
  exact Option.some_ne_none i

theorem busy_of_completionIsNext (h : completionIsNext s) : s.busy = true := by
  rw [← Bool.not_eq_false]
  exact fun hidle => h (s.due_idle hidle)

theorem step_of_completionIsNext (h : completionIsNext s) : ∃ i, step s = exec i s := by
  obtain ⟨i, hi⟩ := Option.ne_none_iff_exists'.mp h
  exact ⟨i, step_of_due s i hi⟩

/-- An accept sets BUSY, and a completion or reset clears it. -/
theorem step_busy (h : step s = .next t) :
    BitChange s.busy t.busy (acceptIsNext s) (completionIsNext s ∨ ∃ rest, resetIsNext s rest) := by
  rcases step_effect h with ⟨i, hd, hexec⟩ | ⟨d, l, ns, _, _, heffect⟩
  · obtain ⟨_, _, _, heng, _, _⟩ := (exec_commandEnd hexec).frame
    exact .cleared ((State.not_busy_iff t).mpr heng) (.inl (completionIsNext_of_due hd))
  · cases heffect with
    | reset rest hreset => exact .cleared rfl (.inr ⟨rest, hreset⟩)
    | accepted _ _ haccept => exact .set rfl haccept
    | reported hillegal =>
      obtain ⟨hidle, _⟩ := hillegal
      exact .kept hidle.symm
    | nothing | ctrlWritten | acknowledged | dropped | lengthWritten | wordWritten => exact .kept (by simp)

/-- A completion or an illegal-command report sets DONE, and its W1C, an accept or reset clears it. -/
theorem step_done (h : step s = .next t) :
    BitChange s.done t.done (completionIsNext s ∨ illegalIsNext s)
      (w1cIsNext s 1 ∨ acceptIsNext s ∨ ∃ rest, resetIsNext s rest) := by
  rcases step_effect h with ⟨i, hd, hexec⟩ | ⟨d, l, ns, _, _, heffect⟩
  · obtain ⟨_, _, _, _, _, hdone⟩ := (exec_commandEnd hexec).frame
    exact .set hdone (.inl (completionIsNext_of_due hd))
  · cases heffect with
    | reset rest hreset => exact .cleared rfl (.inr (.inr ⟨rest, hreset⟩))
    | accepted _ _ haccept => exact .cleared rfl (.inr (.inl haccept))
    | reported hillegal => exact .set rfl (.inr hillegal)
    | acknowledged v rest hwrite => exact bitChange_acknowledge hwrite s.done 1 .inl
    | nothing | ctrlWritten | dropped | lengthWritten | wordWritten => exact .kept (by simp)

/-- A completion or an illegal-command report sets ERR, and its W1C, an accept, reset or a completion clears it. -/
theorem step_err (h : step s = .next t) :
    BitChange s.err t.err (completionIsNext s ∨ illegalIsNext s)
      (completionIsNext s ∨ w1cIsNext s 2 ∨ acceptIsNext s ∨ ∃ rest, resetIsNext s rest) := by
  rcases step_effect h with ⟨i, hd, _⟩ | ⟨d, l, ns, _, _, heffect⟩
  · have hcompletion := completionIsNext_of_due hd
    cases herr : t.err
    · exact .cleared rfl (.inl hcompletion)
    · exact .set rfl (.inl hcompletion)
  · cases heffect with
    | reset rest hreset => exact .cleared rfl (.inr (.inr (.inr ⟨rest, hreset⟩)))
    | accepted _ _ haccept => exact .cleared rfl (.inr (.inr (.inl haccept)))
    | reported hillegal => exact .set rfl (.inr hillegal)
    | acknowledged v rest hwrite => exact bitChange_acknowledge hwrite s.err 2 fun hw => .inr (.inl hw)
    | nothing | ctrlWritten | dropped | lengthWritten | wordWritten => exact .kept (by simp)

/-- A dropped write sets OVR, and its W1C, an accept, an illegal-command report or reset clears it. -/
theorem step_ovr (h : step s = .next t) :
    BitChange s.ovr t.ovr (droppedIsNext s)
      (w1cIsNext s 3 ∨ acceptIsNext s ∨ illegalIsNext s ∨ ∃ rest, resetIsNext s rest) := by
  rcases step_effect h with ⟨i, _, hexec⟩ | ⟨d, l, ns, _, _, heffect⟩
  · obtain ⟨_, _, hovr, _⟩ := (exec_commandEnd hexec).frame
    exact .kept hovr
  · cases heffect with
    | reset rest hreset => exact .cleared rfl (.inr (.inr (.inr ⟨rest, hreset⟩)))
    | accepted _ _ haccept => exact .cleared rfl (.inr (.inl haccept))
    | reported hillegal => exact .cleared rfl (.inr (.inr (.inl hillegal)))
    | acknowledged v rest hwrite => exact bitChange_acknowledge hwrite s.ovr 3 .inl
    | dropped hdrop => exact .set rfl hdrop
    | nothing | ctrlWritten | lengthWritten | wordWritten => exact .kept (by simp)

/-- Where irq becomes IRQ_EN at a completion or an illegal-command report, it rises or is kept. -/
theorem bitChange_irq_of_becomes {rise fall : Prop} (hevent : s.irqEn = true → rise) (hirq : t.irq = s.irqEn) :
    BitChange s.irq t.irq rise fall := by
  cases hen : s.irqEn
  · have hlow : s.irq = false := by rw [State.irq, hen, Bool.false_and]
    exact .kept (by rw [hirq, hen, hlow])
  · exact .set (hirq.trans hen) (hevent hen)

/-- A completion sets DONE and leaves CTRL, so irq becomes IRQ_EN (R36). -/
theorem irq_of_commandEnd (h : CommandEnd s t) : t.irq = s.irqEn := by
  obtain ⟨_, hirq, _, _, _, hdone⟩ := h.frame
  rw [State.irq, hirq, hdone, Bool.and_true]

/-- irq rises at a completion or an illegal-command report with IRQ_EN = 1, and at a write of 1 to IRQ_EN while
DONE = 1; it falls where DONE is cleared, and at a write of 0 to IRQ_EN (R36). -/
theorem step_irq (h : step s = .next t) :
    BitChange s.irq t.irq
      (s.irqEn = true ∧ (completionIsNext s ∨ illegalIsNext s) ∨
        s.done = true ∧ ∃ v rest, writeIsNext s 0x004 v rest ∧ v.getLsbD 0 = true)
      (w1cIsNext s 1 ∨ acceptIsNext s ∨ (∃ rest, resetIsNext s rest) ∨
        ∃ v rest, writeIsNext s 0x004 v rest ∧ v.getLsbD 0 = false) := by
  rcases step_effect h with ⟨i, hd, hexec⟩ | ⟨d, l, ns, _, _, heffect⟩
  · have hirq : t.irq = s.irqEn := irq_of_commandEnd (exec_commandEnd hexec)
    exact bitChange_irq_of_becomes (fun hen => .inl ⟨hen, .inl (completionIsNext_of_due hd)⟩) hirq
  · cases heffect with
    | reset rest hreset => exact .cleared rfl (.inr (.inr (.inl ⟨rest, hreset⟩)))
    | accepted _ _ haccept => exact .cleared (Bool.and_false s.irqEn) (.inr (.inl haccept))
    | reported hillegal =>
      exact bitChange_irq_of_becomes (fun hen => .inl ⟨hen, .inr hillegal⟩) (Bool.and_true s.irqEn)
    | acknowledged v rest hwrite =>
      have hirq : ((s.turn d l ns).acknowledge v).irq = (s.irq && !v.getLsbD 1) :=
        (Bool.and_assoc s.irqEn s.done (!v.getLsbD 1)).symm
      rw [hirq]
      exact bitChange_acknowledge hwrite s.irq 1 .inl
    | ctrlWritten v rest hwrite =>
      have hirq : ((s.turn d l ns).setIrqEn (v.getLsbD 0)).irq = (v.getLsbD 0 && s.done) := rfl
      rw [hirq]
      cases hv : v.getLsbD 0
      · exact .cleared (Bool.false_and s.done) (.inr (.inr (.inr ⟨v, rest, hwrite, hv⟩)))
      · cases hdone : s.done
        · exact .kept (by rw [State.irq, hdone, Bool.and_false, Bool.and_false])
        · exact .set rfl (.inr ⟨rfl, v, rest, hwrite, hv⟩)
    | nothing | dropped | lengthWritten | wordWritten => exact .kept (by simp [State.irq])

/-! ### The write to CMD of an idle block -/

theorem busWrite_cmd_of_idle (s : State) (v : Word) (hidle : s.busy = false) :
    busWrite 0x008 v s = writeCmd v s := by
  show writeUnlessBusy s (writeCmd v s) = writeCmd v s
  rw [writeUnlessBusy, hidle]
  rfl

theorem writeCmd_of_accept (s : State) (v : Word) (i : Instr) (h : acceptWord s.cfg v = .ok i) :
    writeCmd v s = (s.accept i (Config.latency s.drawn)).draw := by
  rw [writeCmd, h]

theorem writeCmd_of_illegal (s : State) (v : Word) (h : legalWord s.cfg v = false) :
    writeCmd v s = s.reportIllegal := by
  rcases writeCmd_cases v s with ⟨i, hok, _⟩ | ⟨_, _, ht⟩
  · rw [legalWord_of_acceptWord_ok s.cfg v i hok] at h
    cases h
  · exact ht

/-- The step that writes CMD of an idle block (R61). -/
theorem step_of_cmdWrite (v : Word) (rest : List HostOp) (hidle : s.busy = false)
    (hwrite : writeIsNext s 0x008 v rest) : step s = .next (writeCmd v (s.tick.setInbox rest)) := by
  rw [step_of_writeIsNext s 0x008 v rest hwrite, busWrite_cmd_of_idle (s.tick.setInbox rest) v hidle]

/-- The report of an illegal command sets DONE and leaves CTRL, so irq becomes IRQ_EN (R36). -/
theorem step_irq_of_illegalIsNext (h : step s = .next t) (hillegal : illegalIsNext s) : t.irq = s.irqEn := by
  obtain ⟨hidle, v, rest, hwrite, hword⟩ := hillegal
  rw [step_of_cmdWrite v rest hidle hwrite, writeCmd_of_illegal (s.tick.setInbox rest) v hword] at h
  injection h with h
  rw [← h]
  exact Bool.and_true s.irqEn

/-! ### The statements of R24 and R36 -/

/-- Settles O53: each bit's rise, from what the step does to it. -/
theorem statusBitsSetOnlyBy : Obligations.StatusBitsSetOnlyBy := fun _ _ h =>
  ⟨(step_busy h).rises, (step_done h).rises, (step_err h).rises, (step_ovr h).rises⟩

/-- Settles O54: each bit's fall, from what the step does to it; a completion finds no error pending, because the block
is BUSY then. -/
theorem statusBitsClearedOnlyBy : Obligations.StatusBitsClearedOnlyBy := by
  intro s t heng h
  refine ⟨(step_busy h).falls, (step_done h).falls, fun herr ht => ?_, (step_ovr h).falls⟩
  rcases (step_err h).falls herr ht with hcompletion | hevent
  · have hfree : s.err = false := heng.errFree (busy_of_completionIsNext hcompletion)
    rw [hfree] at herr
    cases herr
  · exact hevent

/-- Settles O55: irq's rise and fall, from what the step does to it, and its value at the end of a command. -/
theorem irqChangesOnlyBy : Obligations.IrqChangesOnlyBy := by
  refine ⟨fun _ => rfl, rfl, fun s t h => ⟨(step_irq h).rises, (step_irq h).falls, fun hcompletion => ?_,
    step_irq_of_illegalIsNext h⟩⟩
  obtain ⟨i, hi⟩ := step_of_completionIsNext hcompletion
  exact irq_of_commandEnd (exec_commandEnd (hi ▸ h))

end Sys2Proof.Machine
end

section
/-! SUPPORT. While ENG is BUSY the operands stand still until the completion (10_state.md R34, 00_scope.md R18). -/

namespace Sys2Proof.Machine

open Sys2Proof.Safety

/-- The operands of the command in progress are in `t` what they are in `s`: ENG, the buffers, the length registers and
the part. -/
def SameOperands (s t : State) : Prop :=
  t.eng = s.eng ∧ t.mem = s.mem ∧ (∀ b, t.len b = s.len b) ∧ t.cfg = s.cfg

theorem SameOperands.refl (s : State) : SameOperands s s := ⟨rfl, rfl, fun _ => rfl, rfl⟩

theorem SameOperands.busy {s t : State} (h : SameOperands s t) : t.busy = s.busy := by
  obtain ⟨heng, _⟩ := h
  exact State.busy_congr s t heng

theorem SameOperands.trans {s u t : State} (h : SameOperands s u) (h' : SameOperands u t) : SameOperands s t := by
  obtain ⟨heng, hmem, hlen, hcfg⟩ := h
  obtain ⟨heng', hmem', hlen', hcfg'⟩ := h'
  exact ⟨heng'.trans heng, hmem'.trans hmem, fun b => (hlen' b).trans (hlen b), hcfg'.trans hcfg⟩

/-- A host's line other than reset leaves the operands, the latency and the host's lines of a busy block. -/
theorem hostEffect_of_busy {s u t : State} (heffect : HostEffect s u t) (hbusy : s.busy = true)
    (hreset : HostOp.reset ∉ s.inbox) : SameOperands u t ∧ t.wait = u.wait ∧ t.inbox = u.inbox := by
  have not_idle : s.busy ≠ false := by simp [hbusy]
  cases heffect with
  | nothing | ctrlWritten | acknowledged | dropped =>
    exact ⟨⟨rfl, rfl, State.len_congr _ _ rfl rfl rfl rfl, rfl⟩, rfl, rfl⟩
  | reset rest hnext =>
    obtain ⟨_, hinbox⟩ := hnext
    exact absurd (hinbox ▸ List.mem_cons_self) hreset
  | accepted i latency haccept =>
    obtain ⟨hidle, _⟩ := haccept
    exact absurd hidle not_idle
  | reported hillegal =>
    obtain ⟨hidle, _⟩ := hillegal
    exact absurd hidle not_idle
  | lengthWritten b n hidle => exact absurd hidle not_idle
  | wordWritten b w v hidle => exact absurd hidle not_idle

/-- No completion is due while latency is left (R127). -/
theorem State.due_of_wait_pos (s : State) (h : 0 < s.wait) : s.due = none := by
  unfold State.due
  cases s.eng with
  | idle => rfl
  | busy c => exact if_neg (Nat.ne_of_gt h)

/-- One step of a busy block with latency left and no reset among the host's lines: the operands stay, and one step of
latency passes. -/
theorem step_of_waiting {s t : State} (hstep : step s = .next t) (hbusy : s.busy = true) (hwait : 0 < s.wait)
    (hreset : HostOp.reset ∉ s.inbox) :
    SameOperands s t ∧ t.wait = s.wait - 1 ∧ HostOp.reset ∉ t.inbox := by
  rcases step_effect hstep with ⟨i, hd, _⟩ | ⟨d, l, ns, _, hl, heffect⟩
  · rw [s.due_of_wait_pos hwait] at hd
    cases hd
  · obtain ⟨hsame, hw, hinbox⟩ := hostEffect_of_busy heffect hbusy hreset
    have hturn : SameOperands s (s.turn d l ns) := ⟨rfl, rfl, State.turn_len s d l ns, rfl⟩
    have hinbox' : t.inbox = l := hinbox
    exact ⟨hturn.trans hsame, hw, fun hmem => hreset (hl (hinbox' ▸ hmem))⟩

/-- A run of one step more that answers a state took a step that answers one. -/
theorem core_run_succ_next {k : Nat} {s t : State} (h : core.run (k + 1) s = .next t) :
    ∃ u, step s = .next u ∧ core.run k u = .next t := by
  cases hstep : step s with
  | next u => exact ⟨u, rfl, by rwa [core_run_next k s u hstep] at h⟩
  | fault f => rw [core_run_fault k s f hstep] at h; cases h
  | refused r => rw [core_run_refused k s r hstep] at h; cases h

/-- A run of a busy block that does not pass the latency, with no reset among the host's lines. -/
theorem run_of_waiting (k : Nat) {s t : State} (hbusy : s.busy = true) (hwait : k ≤ s.wait)
    (hreset : HostOp.reset ∉ s.inbox) (hrun : core.run k s = .next t) : SameOperands s t ∧ t.wait = s.wait - k := by
  induction k generalizing s with
  | zero =>
    injection hrun with hrun
    exact hrun ▸ ⟨SameOperands.refl s, rfl⟩
  | succ k ih =>
    obtain ⟨u, hstep, hrest⟩ := core_run_succ_next hrun
    obtain ⟨hsame, hw, hreset'⟩ := step_of_waiting hstep hbusy (by omega) hreset
    obtain ⟨hsame', hw'⟩ := ih (hsame.busy.trans hbusy) (by omega) hreset' hrest
    exact ⟨hsame.trans hsame', by omega⟩

/-- Settles O56, by induction on the number of steps. -/
theorem operandsAreThoseAtAccept : Obligations.OperandsAreThoseAtAccept := by
  intro k s t hbusy hwait hreset hrun
  obtain ⟨⟨heng, hmem, hlen, hcfg⟩, hw⟩ := run_of_waiting k hbusy hwait hreset hrun
  exact ⟨heng, hw, hmem, hlen, hcfg⟩

end Sys2Proof.Machine
end

section
/-! SUPPORT. Neither CTRL nor OVR has an effect on a completion (10_state.md R22, R28): other values of the two bits
pass through each operation a command is made of. -/

namespace Sys2Proof.Machine

/-- The state with the given CTRL.IRQ_EN and STATUS.OVR. -/
def State.withFlags (s : State) (irqEn ovr : Bool) : State := { s with irqEn := irqEn, ovr := ovr }

theorem State.setIrqEn_eq_withFlags (s : State) (b : Bool) : s.setIrqEn b = s.withFlags b s.ovr := rfl

theorem State.setOvr_eq_withFlags (s : State) : s.setOvr = s.withFlags s.irqEn true := rfl

variable (s : State) (q o : Bool)

@[simp] theorem State.writeResult_withFlags (b : Buf) (v : List Bool) (n : Nat) :
    (s.withFlags q o).writeResult b v n = (s.writeResult b v n).withFlags q o := by cases b <;> rfl

@[simp] theorem State.clearDest_withFlags (b : Buf) : (s.withFlags q o).clearDest b = (s.clearDest b).withFlags q o :=
  State.writeResult_withFlags s q o b [] 0

@[simp] theorem State.succeed_withFlags : (s.withFlags q o).succeed = s.succeed.withFlags q o := rfl

@[simp] theorem State.failCommand_withFlags (b : Buf) (e : ErrorCode) :
    (s.withFlags q o).failCommand b e = (s.failCommand b e).withFlags q o := by
  rw [State.failCommand, State.clearDest_withFlags]
  rfl

theorem genResult_withFlags (h : Hash) (xtnd : Bool) :
    genResult h xtnd (s.withFlags q o) = (genResult h xtnd s).withFlags q o := by
  simp only [genResult, State.failCommand_withFlags, State.writeResult_withFlags, State.succeed_withFlags,
    apply_ite (State.withFlags · q o)]
  rfl

theorem cipherResult_withFlags (f : List Bool → List Bool → List Bool) (strict : Bool) :
    cipherResult f strict (s.withFlags q o) = (cipherResult f strict s).withFlags q o := by
  simp only [cipherResult, State.failCommand_withFlags, State.writeResult_withFlags, State.succeed_withFlags,
    apply_ite (State.withFlags · q o)]
  rfl

/-- A completion carries the two bits through. -/
theorem exec_withFlags (i : Instr) {s t : State} (h : exec i s = .next t) :
    exec i (s.withFlags q o) = .next (t.withFlags q o) := by
  rcases exec_cases i s t h with ⟨hsel, x, rfl, rfl⟩ | ⟨f, st, ⟨rfl, rfl⟩ | ⟨rfl, rfl⟩, rfl⟩ | ⟨rfl, rfl⟩
  · rw [exec_genOf, genResult_withFlags]
  · rw [exec_encOf, cipherResult_withFlags]
  · rw [exec_decOf, cipherResult_withFlags]
  · simp only [exec, execClear, State.clearDest_withFlags, State.succeed_withFlags]

/-- Settles O46: both changes set the two bits to given values, and a completion carries those through. -/
theorem ctrlAndOvrDoNotMatter : Obligations.CtrlAndOvrDoNotMatter := by
  intro i s t b h
  obtain ⟨_, hirq, hovr, _⟩ := (exec_commandEnd h).frame
  rw [State.setIrqEn_eq_withFlags, State.setIrqEn_eq_withFlags, State.setOvr_eq_withFlags, State.setOvr_eq_withFlags,
    hirq, hovr]
  exact ⟨exec_withFlags b s.ovr i h, exec_withFlags s.irqEn true i h⟩

end Sys2Proof.Machine
end

section
/-! SUPPORT. The fields of ID and STATUS as a host reads them (10_state.md R21, R24, R25), the reset values (R38), and
the step of an accepted command (30_encoding.md R61). -/

namespace Sys2Proof.Machine

open Sys2Proof.Safety

/-! ### ID -/

theorem busRead_id (s : State) : busRead 0x000 s = (idValue s.cfg, s) := rfl

/-- The byte and reserved fields of ID_VALUE, whatever the part (R21). -/
theorem idValue_fields (p : Params) :
    (idValue p).extractLsb' 24 8 = 0x48 ∧ (idValue p).extractLsb' 16 8 = 0x58 ∧
      (idValue p).extractLsb' 8 8 = BitVec.ofNat 8 p.maxSeedWords ∧ (idValue p).extractLsb' 3 5 = 0 := by
  unfold idValue
  refine ⟨?_, ?_, ?_, ?_⟩
  · repeat rw [BitVec.extractLsb'_append_eq_of_le (by decide)]
    rfl
  · repeat rw [BitVec.extractLsb'_append_eq_of_le (by decide)]
    rfl
  · repeat rw [BitVec.extractLsb'_append_eq_of_le (by decide)]
    exact (BitVec.extractLsb'_append_eq_of_add_le (by decide)).trans BitVec.extractLsb'_eq_self
  · repeat rw [BitVec.extractLsb'_append_eq_of_le (by decide)]
    exact (BitVec.extractLsb'_append_eq_of_add_le (by decide)).trans BitVec.extractLsb'_eq_self

/-- The presence bits of ID_VALUE, whatever the part (R21). -/
theorem idValue_bits (p : Params) :
    (idValue p).getLsbD 2 = p.extend ∧ (idValue p).getLsbD 1 = p.hashes.has .keccak256 ∧
      (idValue p).getLsbD 0 = p.hashes.has .sha256 := by
  simp only [idValue, BitVec.getLsbD_append, BitVec.getLsbD_ofBool]
  simp

/-- P_MAX_SEED / 32 fits the MAXSEED_W field (R8, R21). -/
theorem toNat_maxSeedWords (p : Params) : (BitVec.ofNat 8 p.maxSeedWords).toNat = p.maxSeed / 32 := by
  have hbounds := p.maxSeedWords_bounds
  rw [BitVec.toNat_ofNat, Params.maxSeed]
  omega

/-- Settles O17, field by field. -/
theorem idHasItsFields : Obligations.IdHasItsFields := by
  intro s
  rw [busRead_id, busRead_id, State.resetBlock_cfg]
  obtain ⟨hmagicH, hmagicX, hwords, hzero⟩ := idValue_fields s.cfg
  obtain ⟨hext, hkec, hsha⟩ := idValue_bits s.cfg
  refine ⟨hmagicH, hmagicX, ?_, hzero, hext, hkec, hsha, fun _ => rfl, ?_, rfl⟩
  · rw [hwords, toNat_maxSeedWords]
  · intro hcfg
    rw [hcfg]
    rfl

/-! ### STATUS -/

theorem busRead_status (s : State) : busRead 0x00C s = (s.statusWord, s) := rfl

/-- The bits of STATUS (R24). -/
theorem statusWord_bits (s : State) :
    s.statusWord.getLsbD 0 = s.busy ∧ s.statusWord.getLsbD 1 = s.done ∧ s.statusWord.getLsbD 2 = s.err ∧
      s.statusWord.getLsbD 3 = s.ovr := by
  simp only [State.statusWord, BitVec.getLsbD_setWidth, BitVec.getLsbD_append, BitVec.getLsbD_ofBool]
  simp

/-- ERRCODE and the reserved bits of STATUS (R24). -/
theorem statusWord_fields (s : State) :
    s.statusWord.extractLsb' 4 4 = s.errCode ∧ s.statusWord.extractLsb' 8 24 = 0 := by
  constructor
  · rw [State.statusWord, BitVec.extractLsb'_setWidth_of_le (by decide)]
    repeat rw [BitVec.extractLsb'_append_eq_of_le (by decide)]
    exact BitVec.extractLsb'_eq_self
  · apply BitVec.eq_of_getLsbD_eq
    intro k hk
    rw [State.statusWord, BitVec.getLsbD_extractLsb', BitVec.getLsbD_setWidth, BitVec.getLsbD_of_ge _ _ (by omega)]
    simp

/-- Settles O18, field by field. -/
theorem statusHasItsFields : Obligations.StatusHasItsFields := by
  intro s
  rw [busRead_status]
  obtain ⟨hbusy, hdone, herr, hovr⟩ := statusWord_bits s
  obtain ⟨hcode, hzero⟩ := statusWord_fields s
  exact ⟨rfl, by rw [hbusy, State.busy_iff], hdone, herr, hovr, hcode, hzero⟩

/-! ### Reset -/

/-- Settles O1: the registers by evaluation, the buffers because no byte is listed. -/
theorem resetLeavesSpecValues : Obligations.ResetLeavesSpecValues :=
  ⟨rfl, rfl, rfl, fun b => by cases b <;> rfl, bit_nil, rfl, rfl⟩

/-! ### The accepted command -/

/-- A block whose ENG holds a command and whose latency has passed steps by that command's completion (R34, R37). -/
theorem step_of_busy_command (u : State) (i : Instr) (heng : u.eng = .busy (commandOf i)) (hwait : u.wait = 0) :
    step u = exec i u := by
  apply step_of_due
  rw [u.due_busy _ heng, if_pos hwait, instrOf_commandOf]

/-- A word as the opcode table gives it decodes as the word that `withFetchWord` places (R58). -/
theorem decodeWord_of_decodeTableWord (w : Nat) (i : Instr) (h : decodeTableWord 32 w = some i) :
    decodeWord (BitVec.ofNat 32 (w % 2 ^ 32)) = .ok i := by
  rw [decodeTableWord, if_pos (Nat.le_refl 32), bytesOfWord, decode, wordOfBytes_bytesOfWord] at h
  cases hd : decodeWord (BitVec.ofNat 32 (w % 2 ^ 32)) with
  | ok j =>
    rw [hd] at h
    injection h with h
    rw [h]
  | error e =>
    rw [hd] at h
    cases h

theorem placeCommand_of_accept (s : State) (v : Word) (i : Instr) (h : acceptWord s.cfg v = .ok i) :
    placeCommand v s = s.accept i 0 := by
  rw [placeCommand, h]

/-- Settles O10: the accept latches the command's fields, and a block with those fields steps by the command. -/
theorem stepRunsDecodedCommand : Obligations.StepRunsDecodedCommand := by
  constructor
  · intro s v i rest hidle hwrite hdecode hwf
    have haccept : acceptWord s.cfg v = .ok i := (acceptWord_ok_iff s.cfg v i).mpr ⟨hdecode, hwf⟩
    refine ⟨_, step_of_cmdWrite v rest hidle hwrite, ?_⟩
    rw [writeCmd_of_accept (s.tick.setInbox rest) v i haccept]
    exact ⟨rfl, fun u heng hwait => step_of_busy_command u i heng hwait⟩
  · intro s w i htable hwf
    have hdecode := decodeWord_of_decodeTableWord w i htable
    have haccept : acceptWord s.cfg _ = .ok i := (acceptWord_ok_iff s.cfg _ i).mpr ⟨hdecode, hwf⟩
    rw [State.withFetchWord, placeCommand_of_accept s _ i haccept]
    exact step_of_busy_command (s.accept i 0) i rfl rfl

end Sys2Proof.Machine
end

section
/-! SUPPORT. What each offset of the register map names (20_memory.md R40, R41, R45), and host reads, location by
location, while BUSY = 0 and while BUSY = 1 (R46, R49). -/

namespace Sys2Proof.Machine

/-! ### Locations -/

theorem regLoc_of_ge (off : Nat) (h : 0x020 ≤ off) : regLoc off = .reserved := by
  unfold regLoc
  split
  case h_9 => rfl
  all_goals omega

/-- An implemented word of a buffer is inside the buffer's region, so its offset names it (R40, R45). -/
theorem locOf_implemented (p : Params) (b : Buf) (w : Nat) (h : 32 * w < b.size p) :
    locOf p (b.base + 4 * w) = .buf b w := by
  have hsize := b.size_le p
  rw [locOf_buf p b w (by omega), bufLoc, if_pos h]

/-- The reserved ranges and the unimplemented buffer words (R41, R45). -/
theorem locOf_eq_reserved (p : Params) (off : Nat) (h : (0x020 ≤ off ∧ off ≤ 0x0FF) ∨ 0x500 ≤ off ∨
    ∃ (b : Buf) (w : Nat), w < 64 ∧ b.size p ≤ 32 * w ∧ off = b.base + 4 * w) : locOf p off = .reserved := by
  rcases h with ⟨hlow, hhigh⟩ | hhigh | ⟨b, w, hw, hsize, rfl⟩
  · rw [locOf, if_pos (by omega), regLoc_of_ge off hlow]
  · rw [locOf, if_neg (by omega), if_neg (by omega), if_neg (by omega), if_neg (by omega), if_neg (by omega)]
  · rw [locOf_buf p b w hw, bufLoc, if_neg (by omega)]

section Reads

variable (s : State) {off : Nat} {b : Buf} {w : Nat}

/-! ### Reads -/

theorem readUnlessBusy_of_idle (v : Word) (h : s.busy = false) : readUnlessBusy s v = (v, s) := by
  simp [readUnlessBusy, h]

theorem readUnlessBusy_of_busy (v : Word) (h : s.busy = true) :
    readUnlessBusy s v = (Config.busyRead s.drawn, s.draw) := by
  simp [readUnlessBusy, h]

theorem busRead_of_len (h : locOf s.cfg off = .len b) : busRead off s = readUnlessBusy s (s.lenWord b) := by
  rw [busRead, h]

theorem busRead_of_buf (h : locOf s.cfg off = .buf b w) :
    busRead off s = readUnlessBusy s (s.mem.word (b.base + 4 * w)) := by
  rw [busRead, h]

theorem busRead_of_reserved (h : locOf s.cfg off = .reserved) : busRead off s = (0, s) := by
  rw [busRead, h]

/-- A length register of an idle block reads LEN, zero-extended (R46). -/
theorem busRead_len_of_idle (b : Buf) (hidle : s.busy = false) : busRead (lenOffset b) s = (s.lenWord b, s) := by
  rw [busRead_of_len s (locOf_lenOffset s.cfg b), readUnlessBusy_of_idle s _ hidle]

/-- An implemented buffer word of an idle block reads the word in memory (R46). -/
theorem busRead_buf_of_idle (hidle : s.busy = false) (hw : 32 * w < b.size s.cfg) :
    busRead (b.base + 4 * w) s = (s.mem.word (b.base + 4 * w), s) := by
  rw [busRead_of_buf s (locOf_implemented s.cfg b w hw), readUnlessBusy_of_idle s _ hidle]

end Reads

/-- R44 from the side of the word: its bits are the buffer's bits from 32w on. -/
theorem Memory.word_getLsbD (m : Memory) (b : Buf) (w i : Nat) (hi : i < 32) :
    (m.word (b.base + 4 * w)).getLsbD i = m.bit b (32 * w + i) := by
  have hword : (32 * w + i) / 32 = w := by omega
  have hbit : (32 * w + i) % 32 = i := by omega
  rw [Memory.bit_eq_word, hword, hbit]

/-- Settles O19, location by location. -/
theorem readsAreExact : Obligations.ReadsAreExact := by
  refine ⟨fun s => ⟨rfl, rfl, rfl, rfl⟩, fun s hidle => ?_, fun s b w hidle hw => ?_, fun s off h => ?_⟩
  · exact ⟨busRead_len_of_idle s .seed hidle, busRead_len_of_idle s .key hidle, busRead_len_of_idle s .msg hidle,
      busRead_len_of_idle s .out hidle⟩
  · rw [busRead_buf_of_idle s hidle hw]
    exact ⟨rfl, s.mem.word_getLsbD b w⟩
  · exact busRead_of_reserved s (locOf_eq_reserved s.cfg off h)

/-- Settles O20: a length register and a buffer word both answer by `readUnlessBusy`. -/
theorem busyReadsAreFree : Obligations.BusyReadsAreFree := by
  rintro s off hbusy (⟨b, hloc⟩ | ⟨b, w, hloc⟩)
  · rw [busRead_of_len s hloc, readUnlessBusy_of_busy s _ hbusy]
  · rw [busRead_of_buf s hloc, readUnlessBusy_of_busy s _ hbusy]

end Sys2Proof.Machine
end

section
/-! SUPPORT. Host writes, location by location (20_memory.md R41 to R48). -/

namespace Sys2Proof.Machine

open Sys2Proof.Safety

section Writes

variable (s : State) {off : Nat} {b : Buf} {w : Nat}

/-! ### What a write does, by location -/

theorem writeUnlessBusy_of_idle (t : State) (h : s.busy = false) : writeUnlessBusy s t = t := by
  simp [writeUnlessBusy, h]

theorem writeUnlessBusy_of_busy (t : State) (h : s.busy = true) : writeUnlessBusy s t = s.setOvr := by
  simp [writeUnlessBusy, h]

theorem busWrite_of_reserved (v : Word) (h : locOf s.cfg off = .reserved) : busWrite off v s = s := by
  rw [busWrite, h]

theorem busWrite_of_cmd (v : Word) (h : locOf s.cfg off = .cmd) :
    busWrite off v s = writeUnlessBusy s (writeCmd v s) := by
  rw [busWrite, h]

theorem busWrite_of_len (v : Word) (hb : b ≠ .out) (h : locOf s.cfg off = .len b) :
    busWrite off v s = writeUnlessBusy s (s.setLen b (v.setWidth 16)) := by
  rw [busWrite, h]
  cases b with
  | out => exact absurd rfl hb
  | seed | key | msg => rfl

theorem busWrite_of_buf (v : Word) (hb : b ≠ .out) (h : locOf s.cfg off = .buf b w) :
    busWrite off v s = writeUnlessBusy s (s.setMem (s.mem.writeWord (b.base + 4 * w) v)) := by
  rw [busWrite, h]
  cases b with
  | out => exact absurd rfl hb
  | seed | key | msg => rfl

/-- A word of OUT_BUF's region ignores writes, implemented or not (R41, R47). -/
theorem busWrite_outBuf (v : Word) (hw : w < 64) : busWrite (0x400 + 4 * w) v s = s := by
  have hloc : locOf s.cfg (0x400 + 4 * w) = bufLoc s.cfg .out w := locOf_buf s.cfg .out w hw
  rcases bufLoc_cases s.cfg .out w with ⟨_, hbuf⟩ | ⟨_, hres⟩
  · rw [busWrite, hloc, hbuf]
  · exact busWrite_of_reserved s v (hloc.trans hres)

/-- A busy block drops the write and sets OVR (R48). -/
theorem busWrite_of_droppedWhenBusy (v : Word) (hbusy : s.busy = true) (h : droppedWhenBusy s.cfg off) :
    busWrite off v s = s.setOvr := by
  rcases h with hloc | ⟨b, hb, hloc⟩ | ⟨b, w, hb, hloc⟩
  · rw [busWrite_of_cmd s v hloc, writeUnlessBusy_of_busy s _ hbusy]
  · rw [busWrite_of_len s v hb hloc, writeUnlessBusy_of_busy s _ hbusy]
  · rw [busWrite_of_buf s v hb hloc, writeUnlessBusy_of_busy s _ hbusy]

/-- The offsets of R48's list are dropped while BUSY. -/
theorem droppedWhenBusy_of_offset (p : Params) (h : off = 0x008 ∨ off = 0x010 ∨ off = 0x014 ∨ off = 0x018 ∨
    ∃ (b : Buf) (w : Nat), b ≠ .out ∧ 32 * w < b.size p ∧ off = b.base + 4 * w) : droppedWhenBusy p off := by
  rcases h with rfl | rfl | rfl | rfl | ⟨b, w, hb, hw, rfl⟩
  · exact .inl rfl
  · exact .inr (.inl ⟨.seed, by decide, rfl⟩)
  · exact .inr (.inl ⟨.key, by decide, rfl⟩)
  · exact .inr (.inl ⟨.msg, by decide, rfl⟩)
  · exact .inr (.inr ⟨b, w, hb, locOf_implemented p b w hw⟩)

/-! ### The idle block -/

/-- A length register of an idle block takes the low 16 bits (R47). -/
theorem busWrite_len_of_idle (v : Word) (hb : b ≠ .out) (hidle : s.busy = false) :
    busWrite (lenOffset b) v s = s.setLen b (v.extractLsb' 0 16) := by
  rw [busWrite_of_len s v hb (locOf_lenOffset s.cfg b), writeUnlessBusy_of_idle s _ hidle,
    BitVec.setWidth_eq_extractLsb' (by decide)]

/-- An implemented input buffer word of an idle block takes the word (R47). -/
theorem busWrite_buf_of_idle (v : Word) (hb : b ≠ .out) (hidle : s.busy = false) (hw : 32 * w < b.size s.cfg) :
    busWrite (b.base + 4 * w) v s = s.setMem (s.mem.writeWord (b.base + 4 * w) v) := by
  rw [busWrite_of_buf s v hb (locOf_implemented s.cfg b w hw), writeUnlessBusy_of_idle s _ hidle]

end Writes

/-! ### What the write left -/

/-- LEN zero-extended is the word written with bits 31:16 cleared. -/
theorem setWidth_extractLsb'_low (v : Word) : (v.extractLsb' 0 16).setWidth 32 = v &&& 0x0000FFFF := by
  apply BitVec.eq_of_toNat_eq
  have hlt : v.toNat % 2 ^ 16 < 2 ^ 32 := by omega
  rw [BitVec.toNat_setWidth, BitVec.extractLsb'_toNat, Nat.shiftRight_zero, Nat.mod_eq_of_lt hlt, BitVec.toNat_and]
  exact (Nat.and_two_pow_sub_one_eq_mod v.toNat 16).symm

theorem Memory.bit_writeWord_same (m : Memory) (b : Buf) (w : Nat) (v : Word) (i : Nat) (hi : i < 32) :
    (m.writeWord (b.base + 4 * w) v).bit b (32 * w + i) = v.getLsbD i := by
  rw [← Memory.word_getLsbD _ b w i hi, Memory.word_writeWord_same]

theorem Memory.read_writeWord_other (m : Memory) (a x : Nat) (v : Word) (h : ¬(a ≤ x ∧ x < a + 4)) :
    (m.writeWord a v).read x = m.read x := by
  rw [Memory.writeWord, Memory.read_writeBytes, bytesOfWord_length, if_neg h]

/-! ### The obligations -/

/-- Settles O21: such an offset names a reserved location. -/
theorem reservedReadsZeroIgnoresWrites : Obligations.ReservedReadsZeroIgnoresWrites := by
  intro s off v h
  have hloc := locOf_eq_reserved s.cfg off h
  exact ⟨busRead_of_reserved s hloc, busWrite_of_reserved s v hloc⟩

/-- Settles O23: the write is `setLen`, which leaves BUSY, so the read back is exact. -/
theorem idleLengthWrites : Obligations.IdleLengthWrites := by
  intro s v hidle
  have hseed : busWrite 0x010 v s = s.setLen .seed (v.extractLsb' 0 16) :=
    busWrite_len_of_idle s (b := .seed) v (by decide) hidle
  refine ⟨hseed, busWrite_len_of_idle s (b := .key) v (by decide) hidle,
    busWrite_len_of_idle s (b := .msg) v (by decide) hidle, ?_⟩
  have hread := busRead_len_of_idle (s.setLen .seed (v.extractLsb' 0 16)) .seed (by rw [State.setLen_busy, hidle])
  rw [hseed]
  exact (congrArg Prod.fst hread).trans (setWidth_extractLsb'_low v)

/-- Settles O24: the new memory is `writeWord`, whose word and other bytes are known. -/
theorem idleBufferWrites : Obligations.IdleBufferWrites := by
  intro s b w v hidle hb hw
  have hwrite := busWrite_buf_of_idle s v hb hidle hw
  have hidle' : (s.setMem (s.mem.writeWord (b.base + 4 * w) v)).busy = false := hidle
  have hread := busRead_buf_of_idle _ hidle' hw
  refine ⟨s.mem.writeWord (b.base + 4 * w) v, hwrite, s.mem.bit_writeWord_same b w v,
    fun a => s.mem.read_writeWord_other (b.base + 4 * w) a v, ?_⟩
  rw [hwrite, hread]
  exact s.mem.word_writeWord_same _ v

/-- Settles O22: CTRL, STATUS and OUT_LEN by their arm of `busWrite`, OUT_BUF by `busWrite_outBuf`. -/
theorem controlWritesTakeEffect : Obligations.ControlWritesTakeEffect :=
  fun s v => ⟨rfl, rfl, rfl, rfl, fun _ hw => busWrite_outBuf s v hw⟩

/-- Settles O25: the dropped writes by `droppedWhenBusy`, those without effect by what their offset names. -/
theorem busyWritesAreDropped : Obligations.BusyWritesAreDropped := by
  intro s v hbusy
  refine ⟨fun off h => ?_, rfl, rfl, fun off h => ?_⟩
  · exact busWrite_of_droppedWhenBusy s v hbusy (droppedWhenBusy_of_offset s.cfg h)
  · rcases h with rfl | rfl | ⟨w, hw, rfl⟩ | hres
    · rfl
    · rfl
    · exact busWrite_outBuf s v hw
    · exact busWrite_of_reserved s v (locOf_eq_reserved s.cfg off hres)

end Sys2Proof.Machine
end

section
/-! SUPPORT. Host lines that fault: outside the window (20_memory.md R39), and no aligned 32-bit access (R42). -/

namespace Sys2Proof.Machine

theorem windowOffset_offset_of_lt (off : Nat) (h : off < 4096) : windowOffset (.offset off) = some off := if_pos h

theorem windowOffset_offset_of_ge (off : Nat) (h : 4096 ≤ off) : windowOffset (.offset off) = none :=
  if_neg (Nat.not_lt.mpr h)

theorem windowOffset_host_outside (a : Nat) (h : a < Config.pBase ∨ Config.pBase + 4096 ≤ a) :
    windowOffset (.host a) = none := by
  rw [windowOffset, if_neg]
  simp only [windowSize]
  omega

/-- The host address P_BASE + off is offset `off`, or both lie outside the window (R39). -/
theorem windowOffset_host_pBase_add (off : Nat) :
    windowOffset (.host (Config.pBase + off)) = windowOffset (.offset off) := by
  have hmem : (Config.pBase ≤ Config.pBase + off ∧ Config.pBase + off < Config.pBase + windowSize) ↔
      off < windowSize := by omega
  simp only [windowOffset, hmem, Nat.add_sub_cancel_left]

theorem busTarget_of_outside (w : Width) (addr : HostAddr) (h : windowOffset addr = none) :
    busTarget w addr = .error .outsideWindow := by
  rw [busTarget, h]

theorem busTarget_of_not_aligned_word (w : Width) (addr : HostAddr) (off : Nat) (hoff : windowOffset addr = some off)
    (h : w ≠ .word ∨ off % 4 ≠ 0) : busTarget w addr = .error .busError := by
  have hbad : ¬(w = .word ∧ off % 4 = 0) := not_and_or.mpr h
  simp only [busTarget, hoff, if_neg hbad]

/-- A write line and a read line whose address is in error stop with that fault. -/
theorem hostLines_of_error (s : State) (w : Width) (addr : HostAddr) (n : Nat) (x : HostVal) (f : Fault)
    (h : busTarget w addr = .error f) : hostWrite w addr x s = .fault f ∧ hostRead w addr n s = .fault f := by
  rw [hostWrite, hostRead, h]
  exact ⟨rfl, rfl⟩

/-- Settles O15: the offset is in the window, so the fault is that of the access. -/
theorem busErrorFaults : Obligations.BusErrorFaults := by
  intro s w off n x hoff hbad
  have htarget := busTarget_of_not_aligned_word w (.offset off) off (windowOffset_offset_of_lt off hoff) hbad
  exact hostLines_of_error s w _ n x _ htarget

/-- Settles O16: by offset, by host address, and the map from one to the other. -/
theorem windowHas4096Bytes : Obligations.WindowHas4096Bytes := by
  refine ⟨fun s w off n x hoff => ?_, fun s w a n x ha => ?_, fun w off => ?_⟩
  · exact hostLines_of_error s w _ n x _ (busTarget_of_outside w _ (windowOffset_offset_of_ge off hoff))
  · exact hostLines_of_error s w _ n x _ (busTarget_of_outside w _ (windowOffset_host_outside a ha))
  · rw [busTarget, busTarget, windowOffset_host_pBase_add]

end Sys2Proof.Machine
end

section
/-! SUPPORT. The encoding of a command by its fields, and that decoding inverts it (30_encoding.md R58 to R64). -/

namespace Sys2Proof

/-! ### The fields of an encoding -/

/-- The word of a command has the command's fields, and RES is 0 (R58). -/
theorem encode_fields (i : Instr) :
    fieldOp (encode i) = opOf i ∧ fieldHsel (encode i) = hselOf i ∧ fieldXtnd (encode i) = xtndOf i ∧
      fieldStrict (encode i) = strictOf i ∧ fieldRes (encode i) = 0 := by
  cases i <;> decide

@[simp] theorem opOf_genOf (hsel xtnd : Bool) : opOf (genOf hsel xtnd) = 1 := by cases hsel <;> cases xtnd <;> rfl
@[simp] theorem hselOf_genOf (hsel xtnd : Bool) : hselOf (genOf hsel xtnd) = hsel := by
  cases hsel <;> cases xtnd <;> rfl
@[simp] theorem xtndOf_genOf (hsel xtnd : Bool) : xtndOf (genOf hsel xtnd) = xtnd := by
  cases hsel <;> cases xtnd <;> rfl
@[simp] theorem strictOf_genOf (hsel xtnd : Bool) : strictOf (genOf hsel xtnd) = false := by
  cases hsel <;> cases xtnd <;> rfl

@[simp] theorem opOf_encOf (strict : Bool) : opOf (encOf strict) = 2 := by cases strict <;> rfl
@[simp] theorem hselOf_encOf (strict : Bool) : hselOf (encOf strict) = false := by cases strict <;> rfl
@[simp] theorem xtndOf_encOf (strict : Bool) : xtndOf (encOf strict) = false := by cases strict <;> rfl
@[simp] theorem strictOf_encOf (strict : Bool) : strictOf (encOf strict) = strict := by cases strict <;> rfl

@[simp] theorem opOf_decOf (strict : Bool) : opOf (decOf strict) = 3 := by cases strict <;> rfl
@[simp] theorem hselOf_decOf (strict : Bool) : hselOf (decOf strict) = false := by cases strict <;> rfl
@[simp] theorem xtndOf_decOf (strict : Bool) : xtndOf (decOf strict) = false := by cases strict <;> rfl
@[simp] theorem strictOf_decOf (strict : Bool) : strictOf (decOf strict) = strict := by cases strict <;> rfl

/-! ### Decoding inverts encoding -/

/-- A word that decodes to a command has the command's fields, and RES is 0 (R58, R60). -/
theorem fields_of_decodeWord_ok {v : Word} {i : Instr} (h : decodeWord v = .ok i) :
    fieldOp v = opOf i ∧ fieldHsel v = hselOf i ∧ fieldXtnd v = xtndOf i ∧ fieldStrict v = strictOf i ∧
      fieldRes v = 0 := by
  rcases (decodeWord_ok_iff_fields v i).mp h with ⟨hop, hstrict, hres, rfl⟩ | ⟨hop, hhsel, hxtnd, hres, rfl⟩ |
    ⟨hop, hhsel, hxtnd, hres, rfl⟩ | ⟨hop, hhsel, hxtnd, hstrict, hres, rfl⟩
  · simp [hop, hstrict, hres]
  · simp [hop, hhsel, hxtnd, hres]
  · simp [hop, hhsel, hxtnd, hres]
  · exact ⟨hop, hhsel, hxtnd, hstrict, hres⟩

theorem decodeWord_encode (i : Instr) : decodeWord (encode i) = .ok i := by cases i <;> rfl

/-- Decoding and encoding are inverse: both sides fix the five fields of the word (R58, R63). -/
theorem decodeWord_ok_iff_eq_encode (v : Word) (i : Instr) : decodeWord v = .ok i ↔ v = encode i := by
  refine ⟨fun h => ?_, fun h => h ▸ decodeWord_encode i⟩
  obtain ⟨hop, hhsel, hxtnd, hstrict, hres⟩ := fields_of_decodeWord_ok h
  obtain ⟨eop, ehsel, extnd, estrict, eres⟩ := encode_fields i
  exact word_ext_fields v (encode i) (hop.trans eop.symm) (hhsel.trans ehsel.symm) (hxtnd.trans extnd.symm)
    (hstrict.trans estrict.symm) (hres.trans eres.symm)

/-- The bytes of a word, put back together, are the word that is decoded; the bytes after them are left over (R43,
R64). -/
theorem decode_bytesOfWord_append (v : Word) (i : Instr) (rest : List Byte) (h : decodeWord v = .ok i) :
    decode (bytesOfWord v ++ rest) = .ok (i, rest) := by
  simp only [bytesOfWord, List.cons_append, List.nil_append, decode, Machine.wordOfBytes_bytesOfWord, h]

/-- Settles O5: the words by their fields, the bytes by the word they make. -/
theorem decodeEncodeAgree : Obligations.DecodeEncodeAgree :=
  ⟨decodeWord_ok_iff_eq_encode, fun i rest => decode_bytesOfWord_append (encode i) i rest (decodeWord_encode i)⟩

/-- Settles O6: the accept, by what decoding finds and the part has, against the formula, by fields. -/
theorem acceptIsLegalityFormula : Obligations.AcceptIsLegalityFormula := acceptWord_ok_iff_legalWord

/-- A word of the opcode table that is a command's encoding decodes to that command (R65). -/
theorem decodeTableWord_of_encode (w : Nat) (i : Instr) (h : BitVec.ofNat 32 (w % 2 ^ 32) = encode i) :
    decodeTableWord 32 w = some i := by
  have hbytes := decode_bytesOfWord_append (encode i) i [] (decodeWord_encode i)
  rw [List.append_nil] at hbytes
  simp only [decodeTableWord, Nat.le_refl, if_true, h, hbytes]

/-- Settles O4: the nine words are the nine encodings; the two illegal words by evaluation. -/
theorem tableWordsDecode : Obligations.TableWordsDecode :=
  ⟨decodeTableWord_of_encode 0x01 .genSha256 (by decide), decodeTableWord_of_encode 0x11 .genKeccak (by decide),
    decodeTableWord_of_encode 0x21 .genSha256X (by decide), decodeTableWord_of_encode 0x31 .genKeccakX (by decide),
    decodeTableWord_of_encode 0x02 .enc (by decide), decodeTableWord_of_encode 0x42 .encStrict (by decide),
    decodeTableWord_of_encode 0x03 .dec (by decide), decodeTableWord_of_encode 0x43 .decStrict (by decide),
    decodeTableWord_of_encode 0x04 .clear (by decide), by decide, by decide⟩

end Sys2Proof
end

section
/-! SUPPORT. The words that the accept refuses are those of the list of 30_encoding.md R62. -/

namespace Sys2Proof

open Sys2Proof.Safety

/-- A nibble is an assigned operation, or 0, or 5 and up (R60). -/
theorem op_cases (op : BitVec 4) : op = 1 ∨ op = 2 ∨ op = 3 ∨ op = 4 ∨ (op = 0#4 ∨ 5 ≤ op.toNat) := by
  revert op; decide

/-- 0, and 5 and up, are no assigned operation (R60). -/
theorem op_unassigned {op : BitVec 4} (h : op = 0#4 ∨ 5 ≤ op.toNat) : op ≠ 1#4 ∧ op ≠ 2#4 ∧ op ≠ 3#4 ∧ op ≠ 4#4 := by
  revert op; decide

/-- Bits 31:4 of a word are its fields RES, STRICT, XTND and HSEL (R58). -/
theorem highBits_of_fields (v : Word) :
    v.extractLsb' 4 28 =
      fieldRes v ++ BitVec.ofBool (fieldStrict v) ++ BitVec.ofBool (fieldXtnd v) ++ BitVec.ofBool (fieldHsel v) := by
  conv_lhs => rw [word_of_fields v]
  rw [BitVec.extractLsb'_append_eq_of_le (by decide)]
  exact BitVec.extractLsb'_eq_self

theorem highBits_eq_zero_iff (v : Word) :
    v.extractLsb' 4 28 = 0#28 ↔ fieldHsel v = false ∧ fieldXtnd v = false ∧ fieldStrict v = false ∧ fieldRes v = 0 := by
  constructor
  · intro h
    have hbit : ∀ k < 28, v.getLsbD (4 + k) = false := by
      intro k hk
      simpa [hk] using congrArg (·.getLsbD k) h
    refine ⟨hbit 0 (by decide), hbit 1 (by decide), hbit 2 (by decide), ?_⟩
    apply BitVec.eq_of_getLsbD_eq
    intro k hk
    have hres := hbit (3 + k) (by omega)
    rw [← Nat.add_assoc] at hres
    simp [fieldRes, hk, hres]
  · rintro ⟨hhsel, hxtnd, hstrict, hres⟩
    rw [highBits_of_fields, hhsel, hxtnd, hstrict, hres]
    rfl

/-- What a GEN that a part does not have lacks: the engine it selects, or the extension it asks for (R61). -/
theorem wellFormed_genOf_eq_false_iff (p : Params) (hsel xtnd : Bool) :
    (genOf hsel xtnd).wellFormed p = false ↔
      p.hashes.has (hselHash hsel) = false ∨ xtnd = true ∧ p.extend = false := by
  rw [wellFormed_genOf, Bool.and_eq_false_iff]
  cases hsel <;> cases xtnd <;> simp [hselHash]

/-- R62's list is the negation of R61's formula, operation by operation. -/
theorem legalWord_eq_false_iff (p : Params) (v : Word) :
    legalWord p v = false ↔
      ((fieldOp v = 0 ∨ 5 ≤ (fieldOp v).toNat) ∨
        (fieldOp v = 1 ∧ (fieldStrict v = true ∨ fieldRes v ≠ 0)) ∨
        ((fieldOp v = 2 ∨ fieldOp v = 3) ∧ (fieldHsel v = true ∨ fieldXtnd v = true ∨ fieldRes v ≠ 0)) ∨
        (fieldOp v = 4 ∧ v.extractLsb' 4 28 ≠ 0) ∨
        (fieldOp v = 1 ∧ p.hashes.has (hselHash (fieldHsel v)) = false) ∨
        (fieldOp v = 1 ∧ fieldXtnd v = true ∧ p.extend = false)) := by
  rw [Bool.eq_false_iff, ne_eq, legalWord_iff_fields]
  rcases op_cases (fieldOp v) with hop | hop | hop | hop | hop
  · have hpart := wellFormed_genOf_eq_false_iff p (fieldHsel v) (fieldXtnd v)
    simp [hop, ← hpart, imp_iff_not_or, or_assoc]
  · simp [hop, imp_iff_not_or]
  · simp [hop, imp_iff_not_or]
  · simp [hop, highBits_eq_zero_iff]
  · obtain ⟨h1, h2, h3, h4⟩ := op_unassigned hop
    simp [hop, h1, h2, h3, h4]

end Sys2Proof

namespace Sys2Proof.Machine

open Sys2Proof.Safety

/-- The accept of a legal word clears ERRCODE, so the code after a write to CMD of an idle block is 3 exactly where the
word is illegal (R61, R105). -/
theorem writeCmd_errCode_eq_three_iff (s : State) (v : Word) :
    (writeCmd v s).errCode = 3 ↔ legalWord s.cfg v = false := by
  rcases writeCmd_cases v s with ⟨i, hok, ht⟩ | ⟨e, herr, ht⟩ <;> rw [ht]
  · simp [legalWord_of_acceptWord_ok s.cfg v i hok]
  · simp [not_legalWord_of_acceptWord_error s.cfg v e herr]

/-- Settles O7: code 3 means an illegal word, and those are the words of the list. -/
theorem illegalWordsAreListed : Obligations.IllegalWordsAreListed := by
  intro s v hidle
  rw [busWrite_cmd_of_idle s v hidle, writeCmd_errCode_eq_three_iff, legalWord_eq_false_iff]

end Sys2Proof.Machine
end

section
/-! SUPPORT. The accept of a command, and the script lines CMD, POLL and CLRST (30_encoding.md R61, R66). -/

namespace Sys2Proof.Machine

open Sys2Proof.Safety

/-! ### The accept -/

@[simp] theorem opCode_commandOf (i : Instr) : opCode (commandOf i).op = opOf i := by cases i <;> rfl

/-- The step that accepts a command: ENG takes it, with a latency of its own (R61, R127). -/
theorem step_of_accept (s : State) (v : Word) (i : Instr) (rest : List HostOp) (hidle : s.busy = false)
    (hwrite : writeIsNext s 0x008 v rest) (h : acceptWord s.cfg v = .ok i) :
    step s = .next (((s.tick.setInbox rest).accept i (Config.latency s.drawn)).draw) := by
  rw [step_of_cmdWrite v rest hidle hwrite, writeCmd_of_accept (s.tick.setInbox rest) v i h]
  rfl

/-- Settles O8: the command decoded from the word has the word's fields. -/
theorem acceptLatchesCommand : Obligations.AcceptLatchesCommand := by
  intro s v rest hidle hwrite hlegal
  obtain ⟨i, haccept⟩ := (acceptWord_ok_iff_legalWord s.cfg v).mpr hlegal
  obtain ⟨hdecode, _⟩ := (acceptWord_ok_iff s.cfg v i).mp haccept
  obtain ⟨hop, hhsel, hxtnd, hstrict, _⟩ := fields_of_decodeWord_ok hdecode
  refine ⟨_, commandOf i, step_of_accept s v i rest hidle hwrite haccept, rfl, ?_, hhsel.symm, hxtnd.symm,
    hstrict.symm, rfl, rfl, rfl, rfl, rfl, rfl, fun b => by simp, rfl, rfl, rfl⟩
  rw [opCode_commandOf, hop]

/-! ### Script lines -/

/-- A WR line of a number at an aligned offset of the window is that write (R42, R66). -/
theorem writeIsNext_scriptWr (s : State) (off : Nat) (v : Word) (rest : List HostOp) (hd : s.due = none)
    (hi : s.inbox = scriptWr off (.lit v) :: rest) (hoff : off < 4096) (halign : off % 4 = 0) :
    writeIsNext s off v rest := by
  refine ⟨hd, .offset off, .lit v, hi, ?_, rfl⟩
  simp only [busTarget, windowOffset_offset_of_lt off hoff, halign, and_self, if_true]

/-- The step of such a line. -/
theorem step_of_scriptWr (s : State) (off : Nat) (v : Word) (rest : List HostOp) (hd : s.due = none)
    (hi : s.inbox = scriptWr off (.lit v) :: rest) (hoff : off < 4096) (halign : off % 4 = 0) :
    step s = .next (busWrite off v (s.tick.setInbox rest)) :=
  step_of_writeIsNext s off v rest (writeIsNext_scriptWr s off v rest hd hi hoff halign)

/-- A name just bound has the value it was bound to (R66). -/
theorem hostValue_bind_same (s : State) (n : Nat) (v : Word) : hostValue (s.bind n v) (.name n) = some v := by
  simp [hostValue]

/-- One turn of POLL: STATUS is bound, and the line stays exactly while BUSY (R66). -/
theorem hostPoll_eq (n : Nat) (s : State) :
    hostPoll n s = (s.bind n s.statusWord).setInbox (if s.busy = true then .poll n :: s.inbox else s.inbox) := by
  obtain ⟨hbusy, _⟩ := statusWord_bits s
  rw [hostPoll, hbusy]
  cases s.busy <;> rfl

/-- Settles O12: the turn of POLL binds STATUS, and touches nothing but the host's lines and names. -/
theorem pollRepeatsWhileBusy : Obligations.PollRepeatsWhileBusy := by
  intro s n rest hd hi
  have hstep : step s = .next (hostPoll n (s.tick.setInbox rest)) := step_of_line s (.poll n) rest hd hi
  rw [hostPoll_eq] at hstep
  exact ⟨_, hstep, hostValue_bind_same _ n _, rfl, rfl, rfl, rfl, fun b => by simp, rfl, rfl⟩

/-- Settles O13: CMD is an accept, since the command's word decodes to it; CLRST is the acknowledgement with every
W1C bit set. -/
theorem scriptLinesTakeEffect : Obligations.ScriptLinesTakeEffect := by
  constructor
  · intro s i rest hidle hwf hi
    have hwrite : writeIsNext s 0x008 (encode i) rest :=
      writeIsNext_scriptWr s 0x008 (encode i) rest (s.due_idle hidle) hi (by decide) (by decide)
    have haccept : acceptWord s.cfg (encode i) = .ok i :=
      (acceptWord_ok_iff s.cfg (encode i) i).mpr ⟨decodeWord_encode i, hwf⟩
    exact ⟨_, step_of_accept s (encode i) i rest hidle hwrite haccept, rfl, rfl, rfl, fun b => by simp, rfl, rfl, rfl⟩
  · intro s rest hd hi
    have hstep : step s = .next ((s.tick.setInbox rest).acknowledge 0x0000000E) :=
      step_of_scriptWr s 0x00C 0x0000000E rest hd hi (by decide) (by decide)
    refine ⟨_, hstep, ?_, ?_, ?_, ?_, ?_, rfl, rfl, fun b => by simp, rfl, rfl, rfl⟩ <;> simp [State.irq]

end Sys2Proof.Machine
end

section
/-! SUPPORT. The lines of LOADVEC (30_encoding.md R66): the length, then word after word of the vector. -/

namespace Sys2Proof.Machine

/-! ### The bits of a word -/

/-- Bit `i` of word `w` of a vector, 0 beyond the vector (R44). -/
theorem scriptWord_getLsbD (bits : List Bool) (w i : Nat) (hi : i < 32) :
    (scriptWord bits w).getLsbD i = bits.getD (32 * w + i) false := by
  rw [scriptWord, BitVec.getLsbD_ofNat, natOfBits_testBit]
  simp [List.getD_eq_getElem?_getD, hi]

/-- A bit after a word is stored in a buffer: the word's bit in that word of that buffer, the old bit elsewhere. -/
theorem Memory.bit_writeWord (m : Memory) (b c : Buf) (w : Nat) (v : Word) (i : Nat) (hw : w < 64) (hi : i < 2048) :
    (m.writeWord (b.base + 4 * w) v).bit c i = if c = b ∧ i / 32 = w then v.getLsbD (i % 32) else m.bit c i := by
  split
  · next h =>
    obtain ⟨rfl, rfl⟩ := h
    have hbit := m.bit_writeWord_same c (i / 32) v (i % 32) (Nat.mod_lt i (by decide))
    rwa [Nat.div_add_mod] at hbit
  · next h =>
    apply Memory.bit_of_read
    apply Memory.read_writeWord_other
    by_cases hc : c = b
    · subst hc
      have hword : i / 32 ≠ w := fun e => h ⟨rfl, e⟩
      omega
    · have hapart := Buf.base_apart c b hc
      omega

/-! ### The words of a vector -/

theorem writeCmd_inbox (v : Word) (s : State) : (writeCmd v s).inbox = s.inbox := by
  rcases writeCmd_cases v s with ⟨i, _, ht⟩ | ⟨e, _, ht⟩ <;> rw [ht] <;> rfl

/-- A write leaves the host's further lines. -/
theorem busWrite_inbox (off : Nat) (v : Word) (s : State) : (busWrite off v s).inbox = s.inbox := by
  rcases busWrite_cases off v s with
    ht | ⟨_, ht⟩ | ⟨_, ht⟩ | ⟨_, ht, _⟩ | ⟨_, _, ht⟩ | ⟨_, b, _, _, ht⟩ | ⟨_, b, w, _, _, ht⟩ <;>
    simp [ht, writeCmd_inbox]

/-- `t` is `s` with the words `lo` to `hi - 1` of the vector written to the buffer `b` while BUSY = 0: their bits are the
vector's (OUT_BUF ignores them), and every other cell is kept (R44, R47). -/
structure WordsLoaded (b : Buf) (bits : List Bool) (lo hi : Nat) (s t : State) : Prop where
  bit : ∀ c i, i < c.size s.cfg → t.mem.bit c i =
    if c = b ∧ c ≠ .out ∧ 32 * lo ≤ i ∧ i < 32 * hi then bits.getD i false else s.mem.bit c i
  len : ∀ c, t.len c = s.len c
  eng : t.eng = s.eng
  status : t.statusWord = s.statusWord
  irqEn : t.irqEn = s.irqEn
  cfg : t.cfg = s.cfg

theorem WordsLoaded.refl (b : Buf) (bits : List Bool) (lo : Nat) (s : State) : WordsLoaded b bits lo lo s s where
  bit c i _ := by rw [if_neg (by omega)]
  len _ := rfl
  eng := rfl
  status := rfl
  irqEn := rfl
  cfg := rfl

theorem WordsLoaded.trans {b : Buf} {bits : List Bool} {lo mid hi : Nat} {s u t : State}
    (h : WordsLoaded b bits lo mid s u) (h' : WordsLoaded b bits mid hi u t) (hlo : lo ≤ mid) (hhi : mid ≤ hi) :
    WordsLoaded b bits lo hi s t where
  bit c i hi' := by
    rw [h'.bit c i (h.cfg ▸ hi'), h.bit c i hi']
    by_cases hc : c = b ∧ c ≠ .out
    · by_cases hmid : i < 32 * mid
      · have hlow : ¬32 * mid ≤ i := by omega
        have hhigh : i < 32 * hi := by omega
        simp [hc, hmid, hlow, hhigh]
      · have hlow : 32 * mid ≤ i := by omega
        have hlow' : 32 * lo ≤ i := by omega
        simp [hc, hmid, hlow, hlow']
    · rw [if_neg (by tauto), if_neg (by tauto), if_neg (by tauto)]
  len c := (h'.len c).trans (h.len c)
  eng := h'.eng.trans h.eng
  status := h'.status.trans h.status
  irqEn := h'.irqEn.trans h.irqEn
  cfg := h'.cfg.trans h.cfg

/-- The write of one word of the vector to an idle block (R47). -/
theorem wordsLoaded_busWrite (b : Buf) (bits : List Bool) (w : Nat) (s : State) (hidle : s.busy = false)
    (hw : 32 * w < b.size s.cfg) :
    WordsLoaded b bits w (w + 1) s (busWrite (b.base + 4 * w) (scriptWord bits w) s) := by
  have hsmall := b.size_le s.cfg
  by_cases hb : b = .out
  · subst hb
    have hkeep : busWrite (Buf.base .out + 4 * w) (scriptWord bits w) s = s := busWrite_outBuf s _ (by omega)
    rw [hkeep]
    exact ⟨fun c i _ => by rw [if_neg (by tauto)], fun _ => rfl, rfl, rfl, rfl, rfl⟩
  · rw [busWrite_buf_of_idle s _ hb hidle hw]
    refine ⟨fun c i hi => ?_, fun c => by simp, rfl, rfl, rfl, rfl⟩
    have hi' := hi.trans_le (c.size_le s.cfg)
    rw [State.setMem_mem, Memory.bit_writeWord s.mem b c w _ i (by omega) hi']
    by_cases hc : c = b ∧ i / 32 = w
    · obtain ⟨rfl, rfl⟩ := hc
      rw [if_pos ⟨rfl, rfl⟩, if_pos ⟨rfl, hb, by omega, by omega⟩, scriptWord_getLsbD bits _ _ (Nat.mod_lt i (by decide)),
        Nat.div_add_mod]
    · rw [if_neg hc, if_neg (fun h => hc ⟨h.1, by omega⟩)]

/-- The line that writes one word of the vector. -/
def scriptLoadWord (b : Buf) (bits : List Bool) (w : Nat) : HostOp :=
  scriptWr (b.base + 4 * w) (.lit (scriptWord bits w))

theorem Buf.base_aligned (b : Buf) : b.base % 4 = 0 ∧ b.base ≤ 0x400 := by cases b <;> decide

/-- The step of such a line on an idle block, inside the buffer. -/
theorem step_of_scriptLoadWord (b : Buf) (bits : List Bool) (w : Nat) (rest : List HostOp) (s : State)
    (hidle : s.busy = false) (hw : 32 * w < b.size s.cfg) (hi : s.inbox = scriptLoadWord b bits w :: rest) :
    ∃ t, step s = .next t ∧ WordsLoaded b bits w (w + 1) s t ∧ t.inbox = rest := by
  have hsmall := b.size_le s.cfg
  obtain ⟨halign, hbase⟩ := b.base_aligned
  have hstep := step_of_scriptWr s (b.base + 4 * w) _ rest (s.due_idle hidle) hi (by omega) (by omega)
  obtain ⟨hbit, hlen, heng, hstatus, hirq, hcfg⟩ := wordsLoaded_busWrite b bits w (s.tick.setInbox rest) hidle hw
  exact ⟨_, hstep, ⟨hbit, fun c => by simpa using hlen c, heng, hstatus, hirq, hcfg⟩, busWrite_inbox _ _ _⟩

/-- The lines of the words from `lo` on, run on an idle block, by induction on their number. -/
theorem run_scriptLoadWords (b : Buf) (bits : List Bool) (rest : List HostOp) (n : Nat) :
    ∀ (lo : Nat) (s : State), s.busy = false → 32 * (lo + n) ≤ b.size s.cfg →
      s.inbox = (List.range' lo n).map (scriptLoadWord b bits) ++ rest →
      ∃ t, core.run n s = .next t ∧ WordsLoaded b bits lo (lo + n) s t ∧ t.inbox = rest := by
  induction n with
  | zero =>
    intro lo s _ _ hi
    exact ⟨s, rfl, .refl b bits lo s, hi⟩
  | succ n ih =>
    intro lo s hidle hsize hi
    obtain ⟨u, hstep, hu, hrest⟩ := step_of_scriptLoadWord b bits lo _ s hidle (by omega) hi
    have hidle' : u.busy = false := (State.busy_congr s u hu.eng).trans hidle
    obtain ⟨t, hrun, ht, hinbox⟩ := ih (lo + 1) u hidle' (by rw [hu.cfg]; omega) hrest
    have hcount : lo + 1 + n = lo + (n + 1) := by omega
    rw [hcount] at ht
    exact ⟨t, (core_run_next n s u hstep).trans hrun, hu.trans ht (by omega) (by omega), hinbox⟩

/-! ### The length, and the whole of LOADVEC -/

/-- `t` is `s` with the length `n` written to the length register `r` while BUSY = 0: OUT_LEN ignores it, and every other
cell is kept (R47). -/
structure LengthLoaded (r : Buf) (n : Nat) (s t : State) : Prop where
  len : ∀ c, t.len c = if c = r ∧ c ≠ .out then BitVec.ofNat 16 n else s.len c
  mem : t.mem = s.mem
  eng : t.eng = s.eng
  status : t.statusWord = s.statusWord
  irqEn : t.irqEn = s.irqEn
  cfg : t.cfg = s.cfg

/-- The write of a length to an idle block (R47). -/
theorem lengthLoaded_busWrite (r : Buf) (n : Nat) (s : State) (hidle : s.busy = false) :
    LengthLoaded r n s (busWrite (lenOffset r) (BitVec.ofNat 32 n) s) := by
  by_cases hr : r = .out
  · subst hr
    have hkeep : busWrite (lenOffset .out) (BitVec.ofNat 32 n) s = s := rfl
    rw [hkeep]
    exact ⟨fun c => by rw [if_neg (by tauto)], rfl, rfl, rfl, rfl, rfl⟩
  · have hlow : (BitVec.ofNat 32 n).extractLsb' 0 16 = BitVec.ofNat 16 n := by
      rw [← BitVec.setWidth_eq_extractLsb' (by decide), BitVec.setWidth_ofNat_of_le (by decide)]
    rw [busWrite_len_of_idle s _ hr hidle, hlow]
    refine ⟨fun c => ?_, by simp, by simp, by simp [State.statusWord], by simp, by simp⟩
    rw [State.setLen_len]
    by_cases hc : c = r
    · subst hc
      rw [if_pos rfl, if_pos ⟨rfl, hr⟩]
    · rw [if_neg hc, if_neg (fun h => hc h.1)]

/-- The step of LOADVEC's first line on an idle block. -/
theorem step_of_scriptLoadLen (r : Buf) (n : Nat) (rest : List HostOp) (s : State) (hidle : s.busy = false)
    (hi : s.inbox = scriptWr (lenOffset r) (.lit (BitVec.ofNat 32 n)) :: rest) :
    ∃ t, step s = .next t ∧ LengthLoaded r n s t ∧ t.inbox = rest := by
  obtain ⟨hoff, halign⟩ : lenOffset r < 4096 ∧ lenOffset r % 4 = 0 := by cases r <;> decide
  have hstep := step_of_scriptWr s (lenOffset r) _ rest (s.due_idle hidle) hi hoff halign
  obtain ⟨hlen, hmem, heng, hstatus, hirq, hcfg⟩ := lengthLoaded_busWrite r n (s.tick.setInbox rest) hidle
  exact ⟨_, hstep, ⟨fun c => by simpa using hlen c, hmem, heng, hstatus, hirq, hcfg⟩, busWrite_inbox _ _ _⟩

/-- A buffer whose first bits are a vector's has that operand vector (R56). -/
theorem Memory.vec_eq_of_bits (m : Memory) (b : Buf) (bits : List Bool)
    (h : ∀ i < bits.length, m.bit b i = bits.getD i false) : m.vec b bits.length = bits := by
  apply List.ext_getElem (by simp)
  intro i _ hi
  simp [Memory.vec, h i hi, List.getD_eq_getElem?_getD, hi]

/-- LOADVEC is the line of the length, then a line for each word (R66). -/
theorem scriptLoadVec_eq (b r : Buf) (bits : List Bool) :
    scriptLoadVec b r bits = scriptWr (lenOffset r) (.lit (BitVec.ofNat 32 bits.length)) ::
      (List.range' 0 ((bits.length + 31) / 32)).map (scriptLoadWord b bits) := by
  rw [← List.range_eq_range']
  rfl

/-- The lines of LOADVEC run on an idle block: the length is loaded, then the words. -/
theorem run_scriptLoadVec (s : State) (b r : Buf) (bits : List Bool) (rest : List HostOp) (hidle : s.busy = false)
    (hsize : bits.length ≤ b.size s.cfg) (hi : s.inbox = scriptLoadVec b r bits ++ rest) :
    ∃ u t, core.run (1 + (bits.length + 31) / 32) s = .next t ∧ LengthLoaded r bits.length s u ∧
      WordsLoaded b bits 0 ((bits.length + 31) / 32) u t ∧ t.inbox = rest := by
  rw [scriptLoadVec_eq, List.cons_append] at hi
  obtain ⟨u, hstep, hu, hrest⟩ := step_of_scriptLoadLen r bits.length _ s hidle hi
  have hidle' : u.busy = false := (State.busy_congr s u hu.eng).trans hidle
  obtain ⟨k, hk, _, _⟩ := b.size_words s.cfg
  obtain ⟨t, hrun, ht, hinbox⟩ :=
    run_scriptLoadWords b bits rest ((bits.length + 31) / 32) 0 u hidle' (by rw [hu.cfg]; omega) hrest
  rw [Nat.zero_add] at ht
  rw [Nat.add_comm 1, core_run_next _ s u hstep]
  exact ⟨u, t, hrun, hu, ht, hinbox⟩

/-- Settles O14: the length is that of the first line, the bits those of the lines after it. -/
theorem loadVecLoadsVector : Obligations.LoadVecLoadsVector := by
  intro s b r bits rest hidle hsize hi
  obtain ⟨u, t, hrun, hu, ht, hinbox⟩ := run_scriptLoadVec s b r bits rest hidle hsize hi
  have hsmall := b.size_le s.cfg
  have hlen : ∀ c, t.len c = if c = r ∧ c ≠ .out then BitVec.ofNat 16 bits.length else s.len c := fun c =>
    (ht.len c).trans (hu.len c)
  have hlenr : r ≠ .out → (t.len r).toNat = bits.length := by
    intro hr
    rw [hlen, if_pos ⟨rfl, hr⟩, BitVec.toNat_ofNat, Nat.mod_eq_of_lt (by omega)]
  have hbit : ∀ c i, i < c.size s.cfg → t.mem.bit c i =
      if c = b ∧ c ≠ .out ∧ i < 32 * ((bits.length + 31) / 32) then bits.getD i false else s.mem.bit c i := by
    intro c i hi
    rw [ht.bit c i (hu.cfg ▸ hi), hu.mem]
    simp
  refine ⟨t, hrun, hlen, hlenr, hbit, fun hrb hb => ?_, hinbox, ?_, ht.status.trans hu.status,
    ht.irqEn.trans hu.irqEn, ht.cfg.trans hu.cfg⟩
  · subst hrb
    show t.mem.vec r (t.len r).toNat = bits
    rw [hlenr hb]
    apply Memory.vec_eq_of_bits
    intro i hi
    rw [hbit r i (by omega), if_pos ⟨rfl, hb, by omega⟩]
  · exact (ht.eng.trans hu.eng).trans ((State.not_busy_iff s).mp hidle)

end Sys2Proof.Machine
end

section
/-! SUPPORT. Byte strings and lists cut from equal pieces: what the hash engines of 40_hash_expander.md R70 to R89 are
built with. -/

namespace Sys2Proof.Machine

theorem getD_map_range {α : Type} (f : Nat → α) {n i : Nat} (d : α) (hi : i < n) :
    ((List.range n).map f).getD i d = f i := by
  simp [List.getD_eq_getElem?_getD, hi]

theorem getD_drop {α : Type} (l : List α) (j i : Nat) (d : α) : (l.drop j).getD i d = l.getD (j + i) d := by
  simp [List.getD_eq_getElem?_getD]

/-- Pieces of `n` elements each, one after another: element `k` is element `k mod n` of piece `k div n`. -/
theorem getElem?_flatMap_of_length {α β : Type} (f : α → List β) {n : Nat} (hn : 0 < n)
    (hf : ∀ a, (f a).length = n) (l : List α) (k : Nat) :
    (l.flatMap f)[k]? = l[k / n]?.bind fun a => (f a)[k % n]? := by
  induction l generalizing k with
  | nil => simp
  | cons a l ih =>
    rw [List.flatMap_cons]
    by_cases hk : k < n
    · rw [List.getElem?_append_left (by rw [hf]; exact hk), Nat.div_eq_of_lt hk, Nat.mod_eq_of_lt hk]
      rfl
    · have hnk : n ≤ k := Nat.le_of_not_lt hk
      rw [List.getElem?_append_right (by rw [hf]; exact hnk), hf, ih, Nat.div_eq_sub_div hn hnk,
        Nat.mod_eq_sub_mod hnk]
      rfl

theorem length_flatMap_of_length {α β : Type} (f : α → List β) {n : Nat} (hf : ∀ a, (f a).length = n) (l : List α) :
    (l.flatMap f).length = l.length * n := by
  simp [List.length_flatMap, hf]

@[simp] theorem beBytes_length (k n : Nat) : (beBytes k n).length = k := by
  induction k generalizing n with
  | zero => rfl
  | succ k ih => simp [beBytes, ih]

@[simp] theorem leBytes_length (k n : Nat) : (leBytes k n).length = k := by
  induction k generalizing n with
  | zero => rfl
  | succ k ih => simp [leBytes, ih]

@[simp] theorem blocksOf_length (size k : Nat) (b : List Byte) : (blocksOf size k b).length = k := by
  induction k generalizing b with
  | zero => rfl
  | succ k ih => simp [blocksOf, ih]

/-- Block `t` begins at byte `size * t` (R76, R89). -/
theorem blocksOf_getElem? {size k t : Nat} (b : List Byte) (ht : t < k) :
    (blocksOf size k b)[t]? = some ((b.drop (size * t)).take size) := by
  induction k generalizing b t with
  | zero => omega
  | succ k ih =>
    cases t with
    | zero => simp [blocksOf]
    | succ t =>
      rw [blocksOf, List.getElem?_cons_succ, ih _ (Nat.lt_of_succ_lt_succ ht), List.drop_drop, Nat.mul_succ,
        Nat.add_comm size]

/-- One more byte at the end of a big-endian number (R12). -/
theorem ofNat_append_byte (w n : Nat) (x : Byte) : BitVec.ofNat (w + 8) (256 * n + x.toNat) = BitVec.ofNat w n ++ x := by
  apply BitVec.eq_of_getLsbD_eq
  intro i hi
  rw [BitVec.getLsbD_ofNat, BitVec.getLsbD_append, Nat.testBit_two_pow_mul_add n (i := 8) x.isLt, BitVec.getLsbD_ofNat]
  by_cases h8 : i < 8
  · simp [h8, hi, BitVec.getLsbD]
  · have : i - 8 < w := by omega
    simp [h8, hi, this]

/-- The big-endian number of four bytes is the bytes side by side (R12). -/
theorem ofNat_ofBeBytes_four (a b c d : Byte) : BitVec.ofNat 32 (ofBeBytes [a, b, c, d]) = a ++ b ++ c ++ d := by
  have h : ofBeBytes [a, b, c, d] = 256 * (256 * (256 * a.toNat + b.toNat) + c.toNat) + d.toNat := by
    simp [ofBeBytes]
  rw [h, ofNat_append_byte 24, ofNat_append_byte 16, ofNat_append_byte 8, BitVec.ofNat_toNat, BitVec.setWidth_eq]

end Sys2Proof.Machine
end

section
/-! SUPPORT. The SHA-256 engine (40_hash_expander.md R76 to R81) and the length of both digests (R69). -/

namespace Sys2Proof.Machine

/-! ### The digests -/

theorem sha256_length (b : List Byte) : (sha256 b).length = 32 :=
  length_flatMap_of_length _ (fun _ => beBytes_length 4 _) _

theorem keccak256_length (b : List Byte) : (keccak256 b).length = 32 :=
  length_flatMap_of_length _ (fun _ => leBytes_length 8 _) _

/-- Settles O30: SHA-256 has eight words of four bytes, Keccak-256 four lanes of eight. -/
theorem digestsHave32Bytes : Obligations.DigestsHave32Bytes := fun b => ⟨sha256_length b, keccak256_length b⟩

/-! ### Padding -/

/-- The number of zero bytes is the least that leaves room for the length in the last block (R76). -/
theorem shaPadZeros_least (l : Nat) :
    (l + 1 + shaPadZeros l) % 64 = 56 ∧ ∀ j, (l + 1 + j) % 64 = 56 → shaPadZeros l ≤ j := by
  unfold shaPadZeros
  constructor
  · omega
  · intro j hj
    omega

theorem shaPad_length (b : List Byte) : (shaPad b).length = b.length + 1 + shaPadZeros b.length + 8 := by
  simp [shaPad]
  omega

/-- Settles O33: the zero bytes are the least that reach 56 mod 64, and the length takes the other 8 bytes. -/
theorem shaPaddingIsLeast : Obligations.ShaPaddingIsLeast := by
  intro b
  obtain ⟨hfill, hleast⟩ := shaPadZeros_least b.length
  refine ⟨shaPadZeros b.length, hfill, hleast, rfl, ?_⟩
  rw [shaPad_length]
  omega

/-! ### The message schedule -/

theorem shaBlockWords_length (m : List Byte) : (shaBlockWords m).length = 16 := by simp [shaBlockWords]

/-- Word `t` of a block is the big-endian word of its bytes `4t` to `4t + 3` (R80). -/
theorem shaBlockWords_getD (m : List Byte) {t : Nat} (hm : m.length = 64) (ht : t < 16) :
    (shaBlockWords m).getD t 0 =
      m.getD (4 * t) 0 ++ m.getD (4 * t + 1) 0 ++ m.getD (4 * t + 2) 0 ++ m.getD (4 * t + 3) 0 := by
  have hbytes : (m.drop (4 * t)).take 4 =
      [m.getD (4 * t) 0, m.getD (4 * t + 1) 0, m.getD (4 * t + 2) 0, m.getD (4 * t + 3) 0] := by
    apply List.ext_getElem
    · rw [List.length_take, List.length_drop, hm]
      simp only [List.length_cons, List.length_nil]
      omega
    · intro i _ hi
      rw [List.getElem_take, List.getElem_drop, ← List.getD_eq_getElem m 0]
      simp only [List.length_cons, List.length_nil] at hi
      interval_cases i <;> rfl
  rw [shaBlockWords, List.getD_eq_getElem?_getD, List.getElem?_map, blocksOf_getElem? m ht, hbytes]
  exact ofNat_ofBeBytes_four _ _ _ _

/-- The words a schedule is extended from stay, behind the new ones. -/
theorem shaExtend_drop (k : Nat) (w : List Word) : (shaExtend k w).drop k = w := by
  induction k generalizing w with
  | zero => rfl
  | succ k ih => rw [shaExtend, ← List.drop_drop, ih]; rfl

@[simp] theorem shaExtend_length (k : Nat) (w : List Word) : (shaExtend k w).length = w.length + k := by
  induction k generalizing w with
  | zero => rfl
  | succ k ih => rw [shaExtend, ih, List.length_cons]; omega

/-- Each new word is made from the words before it (R80). -/
theorem shaExtend_getD (k : Nat) (w : List Word) (j : Nat) (hj : j < k) :
    (shaExtend k w).getD j 0 = shaNextWord ((shaExtend k w).drop (j + 1)) := by
  induction k generalizing w with
  | zero => omega
  | succ k ih =>
    rcases Nat.lt_succ_iff_lt_or_eq.mp hj with hj | rfl
    · exact ih _ hj
    · have hlast := shaExtend_drop j (shaNextWord w :: w)
      have hword := getD_drop (shaExtend j (shaNextWord w :: w)) j 0 0
      rw [hlast] at hword
      rw [shaExtend, ← List.drop_drop, hlast]
      exact hword.symm

theorem shaSchedule_length (m : List Byte) : (shaSchedule m).length = 64 := by
  simp [shaSchedule, shaBlockWords_length]

/-- The schedule read from its end, as it is built. -/
theorem shaSchedule_getD (m : List Byte) {t : Nat} (ht : t < 64) :
    (shaSchedule m).getD t 0 = (shaExtend 48 (shaBlockWords m).reverse).getD (63 - t) 0 := by
  have hlen : (shaExtend 48 (shaBlockWords m).reverse).length = 64 := by simp [shaBlockWords_length]
  rw [shaSchedule, List.getD_reverse _ (by omega), hlen]

theorem shaSchedule_getD_of_lt (m : List Byte) {t : Nat} (ht : t < 16) :
    (shaSchedule m).getD t 0 = (shaBlockWords m).getD t 0 := by
  have hindex : 63 - t = 48 + (15 - t) := by omega
  rw [shaSchedule_getD m (by omega), hindex, ← getD_drop, shaExtend_drop,
    List.getD_reverse _ (by rw [shaBlockWords_length]; omega), shaBlockWords_length]
  congr 1
  omega

/-- R80's recurrence. -/
theorem shaSchedule_getD_of_ge (m : List Byte) {t : Nat} (h16 : 16 ≤ t) (ht : t < 64) :
    (shaSchedule m).getD t 0 =
      shaSmallS1 ((shaSchedule m).getD (t - 2) 0) + (shaSchedule m).getD (t - 7) 0 +
        shaSmallS0 ((shaSchedule m).getD (t - 15) 0) + (shaSchedule m).getD (t - 16) 0 := by
  have hback (i : Nat) (hi : i + 1 ≤ t) : ((shaExtend 48 (shaBlockWords m).reverse).drop (63 - t + 1)).getD i 0 =
      (shaSchedule m).getD (t - (i + 1)) 0 := by
    rw [shaSchedule_getD m (by omega), getD_drop]
    congr 1
    omega
  rw [shaSchedule_getD m ht, shaExtend_getD _ _ _ (by omega), shaNextWord, hback 1 (by omega), hback 6 (by omega),
    hback 14 (by omega), hback 15 (by omega)]

/-- Settles O34: the first words are the block's own, and each later one is `shaNextWord` of those before it. -/
theorem shaScheduleRecurrence : Obligations.ShaScheduleRecurrence := by
  intro m hm
  refine ⟨shaSchedule_length m, fun t ht => ?_, fun t => shaSchedule_getD_of_ge m⟩
  rw [shaSchedule_getD_of_lt m ht, shaBlockWords_getD m hm ht]

end Sys2Proof.Machine
end

section
/-! SUPPORT. The Keccak-256 engine (40_hash_expander.md R82 to R88): the padding, and the steps lane by lane. -/

namespace Sys2Proof.Machine

open Sys2Proof.Safety

/-! ### Padding -/

/-- The number of zero bytes is the least that fills the last block (R82). -/
theorem keccakPadZeros_least (l : Nat) :
    (l + 1 + keccakPadZeros l) % 136 = 0 ∧ ∀ j, (l + 1 + j) % 136 = 0 → keccakPadZeros l ≤ j := by
  unfold keccakPadZeros
  constructor
  · omega
  · intro j hj
    omega

theorem orLastByte_cons (b : Byte) {bs : List Byte} (hbs : bs ≠ []) : orLastByte (b :: bs) = b :: orLastByte bs := by
  cases bs with
  | nil => contradiction
  | cons => rfl

@[simp] theorem orLastByte_length (l : List Byte) : (orLastByte l).length = l.length := by
  induction l using orLastByte.induct with
  | case1 => rfl
  | case2 b => rfl
  | case3 b bs hbs ih => rw [orLastByte_cons b hbs, List.length_cons, ih, List.length_cons]

/-- Only the last byte changes (R82). -/
theorem orLastByte_getD (l : List Byte) (i : Nat) :
    (orLastByte l).getD i 0 = l.getD i 0 ||| (if i + 1 = l.length then 0x80 else 0x00) := by
  induction l using orLastByte.induct generalizing i with
  | case1 => simp [orLastByte]
  | case2 b => cases i <;> simp [orLastByte]
  | case3 b bs hbs ih =>
    have hne : bs ≠ [] := hbs
    rw [orLastByte_cons b hne]
    cases i with
    | zero => simp [hne]
    | succ i => simp only [List.getD_cons_succ, ih, List.length_cons, Nat.add_right_cancel_iff]

/-- Settles O35: the zero bytes are the least that fill the block, and `orLastByte` changes the last byte only. -/
theorem keccakPaddingIsLeast : Obligations.KeccakPaddingIsLeast := by
  intro b
  obtain ⟨hfill, hleast⟩ := keccakPadZeros_least b.length
  refine ⟨keccakPadZeros b.length, hfill, hleast, by simp [keccakPad]; omega, fun i _ => ?_⟩
  have hlast : i + 1 = (b ++ [0x01] ++ List.replicate (keccakPadZeros b.length) (0x00 : Byte)).length ↔
      i = b.length + keccakPadZeros b.length := by
    simp
    omega
  rw [keccakPad, orLastByte_getD]
  simp only [hlast]

/-! ### The lanes -/

/-- A state built lane by lane has those lanes (R83). -/
theorem keccakLane_keccakBuild (f : Nat → Nat → Lane) {x y : Nat} (hx : x < 5) (hy : y < 5) :
    keccakLane (keccakBuild f) x y = f x y := by
  have hmod : (x + 5 * y) % 5 = x := by omega
  have hdiv : (x + 5 * y) / 5 = y := by omega
  rw [keccakLane, keccakBuild, getD_map_range _ _ (by omega), hmod, hdiv]

/-- Settles O36: the lane that `keccakRhoPi` takes for (y, (2x + 3y) mod 5) is (x, y). -/
theorem keccakRhoPiMovesLanes : Obligations.KeccakRhoPiMovesLanes := by
  intro a x y hx hy
  have hsource : (y + 3 * ((2 * x + 3 * y) % 5)) % 5 = x := by omega
  rw [keccakRhoPi, keccakLane_keccakBuild _ hy (Nat.mod_lt _ (by decide)), hsource]

theorem keccakParities_getD (a : KeccakState) {x : Nat} (hx : x < 5) :
    (keccakParities a).getD x 0 = columnParity a x := getD_map_range _ _ hx

/-- θ on one lane (R84). -/
theorem keccakLane_keccakTheta (a : KeccakState) {x y : Nat} (hx : x < 5) (hy : y < 5) :
    keccakLane (keccakTheta a) x y = keccakLane a x y ^^^ (columnParity a ((x + 4) % 5) ^^^
      (columnParity a ((x + 1) % 5)).rotateLeft 1) := by
  rw [keccakTheta, keccakLane_keccakBuild _ hx hy, getD_map_range _ _ hx, keccakD,
    keccakParities_getD a (Nat.mod_lt _ (by decide)), keccakParities_getD a (Nat.mod_lt _ (by decide))]

/-- Settles O37: both steps build their state lane by lane. -/
theorem keccakThetaChiOnLanes : Obligations.KeccakThetaChiOnLanes :=
  ⟨fun a _ _ => keccakLane_keccakTheta a, fun _ _ _ => keccakLane_keccakBuild _⟩

end Sys2Proof.Machine
end

section
/-! SUPPORT. The bits of the key expansion (40_hash_expander.md R68, R70, R71). -/

namespace Sys2Proof.Machine

/-- Settles O58: Render maps each bit to its digit. -/
theorem renderIsAsciiDigits : Obligations.RenderIsAsciiDigits := by
  intro v
  refine ⟨by simp [render], fun i hi => ?_⟩
  rw [render, List.getElem?_map, List.getD_eq_getElem _ _ hi, List.getElem?_eq_getElem hi]
  rfl

theorem hashBytes_length (h : Hash) (b : List Byte) : (hashBytes h b).length = 32 := by
  cases h
  · exact sha256_length b
  · exact keccak256_length b

/-! ### ExpandDigest -/

/-- The eight bits of a byte, most significant first (R70). -/
def byteBits (x : Byte) : List Bool := (List.range 8).map fun m => x.getLsbD (7 - m)

@[simp] theorem byteBits_length (x : Byte) : (byteBits x).length = 8 := by simp [byteBits]

/-- The bits of a byte's two hex digits are the byte's bits (R70). -/
theorem digitBits_nibbles (x : Byte) : digitBits (x.toNat / 16) ++ digitBits (x.toNat % 16) = byteBits x := by
  have hhigh (i : Nat) : (x.toNat / 16).testBit i = x.getLsbD (i + 4) := Nat.testBit_div_two_pow (n := 4) _ _
  have hlow (i : Nat) (hi : i < 4) : (x.toNat % 16).testBit i = x.getLsbD i := by
    simp [Nat.testBit_mod_two_pow (j := 4), hi, BitVec.getLsbD]
  simp [digitBits, byteBits, List.range_succ, hhigh, hlow]

theorem expandDigest_eq (d : List Byte) : expandDigest d = d.flatMap byteBits := by
  rw [expandDigest, hexDigits, List.flatMap_assoc]
  apply List.flatMap_congr
  intro x _
  simp [← digitBits_nibbles]

theorem expandDigest_length (d : List Byte) : (expandDigest d).length = d.length * 8 := by
  rw [expandDigest_eq, length_flatMap_of_length _ byteBits_length]

/-- Bit `m` of an expansion is bit `7 - m mod 8` of byte `m div 8` (R70). -/
theorem expandDigest_getD (d : List Byte) {m : Nat} (hm : m < d.length * 8) :
    (expandDigest d).getD m false = (d.getD (m / 8) 0).getLsbD (7 - m % 8) := by
  have hbyte : m / 8 < d.length := by omega
  have hbit : m % 8 < 8 := Nat.mod_lt _ (by decide)
  rw [expandDigest_eq, List.getD_eq_getElem?_getD, getElem?_flatMap_of_length _ (by decide) byteBits_length,
    List.getElem?_eq_getElem hbyte, Option.bind_some, ← List.getD_eq_getElem?_getD, List.getD_eq_getElem _ _ hbyte]
  exact getD_map_range _ _ hbit

/-! ### ExpandN -/

/-- Every digest block expands to 256 bits (R70, R71). -/
theorem expandDigest_hashBytes_length (h : Hash) (b : List Byte) : (expandDigest (hashBytes h b)).length = 256 := by
  rw [expandDigest_length, hashBytes_length]

theorem expandN_length (h : Hash) (b : List Byte) (l : Nat) : (expandN h b l).length = l := by
  rw [expandN, List.length_take, length_flatMap_of_length _ fun _ => expandDigest_hashBytes_length h _,
    List.length_range, Config.digestBits]
  omega

/-- Bit `k` of the key is bit `k mod 256` of block `k div 256` (R71). -/
theorem expandN_getD (h : Hash) (b : List Byte) {l k : Nat} (hk : k < l) :
    (expandN h b l).getD k false = (expandDigest (hashBytes h (blockInput b (k / 256)))).getD (k % 256) false := by
  have hblock : k / 256 < (l + 255) / 256 := by omega
  rw [expandN, Config.digestBits, List.getD_eq_getElem?_getD, List.getElem?_take_of_lt hk,
    getElem?_flatMap_of_length _ (by decide) fun _ => expandDigest_hashBytes_length h _,
    List.getElem?_range hblock, Option.bind_some, ← List.getD_eq_getElem?_getD]

/-- Settles O29: the block that bit `k` falls in, then the byte and bit of that block's digest. -/
theorem expansionBits : Obligations.ExpansionBits := by
  intro h b l
  refine ⟨expandN_length h b l, fun k hk => ?_⟩
  have hmod : k % 256 % 8 = k % 8 := by omega
  rw [expandN_getD h b hk, expandDigest_getD _ (by rw [hashBytes_length]; omega), hmod, blockInput]

end Sys2Proof.Machine
end

section
/-! SUPPORT. The completion of GEN (40_hash_expander.md R67 to R75, R90): when it succeeds, and what it leaves. -/

namespace Sys2Proof.Machine

open Sys2Proof.Safety

/-! ### The end of a command that succeeds -/

/-- Writing a result and succeeding touches nothing but the destination and STATUS (R59, R67). -/
theorem frameExcept_writeResult_succeed (s : State) (b : Buf) (v : List Bool) (n : Nat) :
    FrameExcept b s (s.writeResult b v n).succeed := by
  refine ⟨by simp [HostSame], by simp, by simp, fun c hc => ?_, fun a ha => ?_⟩
  · rw [State.succeed_len, State.writeResult_len, if_neg hc]
  · rw [State.succeed_mem, State.writeResult_mem, Memory.read_writeVec_other _ _ _ _ _ ha]

/-- The buffer written holds the result (R57). -/
theorem holds_writeResult_succeed (s : State) (b : Buf) (v : List Bool) (n : Nat) :
    Holds (s.writeResult b v n).succeed b v := by
  intro i hi
  rw [State.succeed_mem, State.writeResult_mem]
  exact Memory.bit_writeVec _ _ _ _ _ (by simpa using hi)

theorem succeeded_succeed (s : State) : Succeeded s.succeed := ⟨rfl, rfl, rfl, rfl⟩

/-! ### The outcome of GEN -/

theorem exec_genOf_hselHash (hsel x : Bool) (s : State) :
    exec (genOf hsel x) s = .next (genResult (hselHash hsel) x s) := by
  cases hsel <;> exact exec_genOf _ x s

theorem genResult_of_exec {hsel x : Bool} {s t : State} (h : exec (genOf hsel x) s = .next t) :
    t = genResult (hselHash hsel) x s := by
  rw [exec_genOf_hselHash] at h
  injection h with h
  exact h.symm

/-- The longest seed GEN takes (R73). -/
def genMaxSeed (p : Params) (x : Bool) : Nat := if x = true then p.maxSeed else 64

theorem genMaxSeed_le (p : Params) (x : Bool) : genMaxSeed p x ≤ p.maxSeed := by
  have hmin := p.maxSeed_bounds
  unfold genMaxSeed
  split <;> omega

/-- The state after a GEN that succeeds: the first `4n` bits of the expansion are the key (R67). -/
def genSuccess (h : Hash) (s : State) : State :=
  (s.writeResult .key (expandN h (render (s.vec .seed)) (4 * s.seedLen.toNat)) (4 * s.seedLen.toNat)).succeed

/-- GEN fails exactly when the seed is too long (R73, R102). -/
theorem genResult_end (h : Hash) (x : Bool) (s : State) :
    (s.seedLen.toNat ≤ genMaxSeed s.cfg x ∧ genResult h x s = genSuccess h s) ∨
    (genMaxSeed s.cfg x < s.seedLen.toNat ∧ ∃ e, genResult h x s = s.failCommand .key e) := by
  have hmin := s.cfg.maxSeed_bounds
  unfold genMaxSeed
  rcases genResult_cases h x s with ⟨hlong, ht⟩ | ⟨_, rfl, hlong, ht⟩ | ⟨hseed, hx, ht⟩
  · exact .inr ⟨by split <;> omega, _, ht⟩
  · exact .inr ⟨hlong, _, ht⟩
  · refine .inl ⟨?_, ht⟩
    rcases hx with rfl | hx
    · exact hseed
    · split <;> omega

theorem genResult_of_le {h : Hash} {x : Bool} {s : State} (hseed : s.seedLen.toNat ≤ genMaxSeed s.cfg x) :
    genResult h x s = genSuccess h s := by
  rcases genResult_end h x s with ⟨_, ht⟩ | ⟨hlong, _⟩
  · exact ht
  · omega

theorem genSuccess_err (h : Hash) (s : State) : (genSuccess h s).err = false := rfl

theorem genSuccess_keyLen (h : Hash) (s : State) (hseed : s.seedLen.toNat ≤ s.cfg.maxSeed) :
    (genSuccess h s).keyLen.toNat = 4 * s.seedLen.toNat := by
  have hmax := s.cfg.maxSeed_bounds
  obtain ⟨hlen, _⟩ := s.writeResult_succeed_spec .key (expandN h (render (s.vec .seed)) (4 * s.seedLen.toNat))
    (4 * s.seedLen.toNat) (by omega)
  exact hlen

theorem genSuccess_bit (h : Hash) (s : State) {i : Nat} (hi : i < s.cfg.maxKey) :
    (genSuccess h s).mem.bit .key i =
      (expandN h (render (s.vec .seed)) (4 * s.seedLen.toNat)).getD i false :=
  holds_writeResult_succeed s .key _ _ i (by simpa [Buf.size] using hi)

@[simp] theorem failCommand_keyLen (s : State) (e : ErrorCode) : (s.failCommand .key e).keyLen = 0 := by
  obtain ⟨_, _, _, _, _, hlen, _⟩ := s.failCommand_spec .key e
  exact hlen

theorem failCommand_bit (s : State) (e : ErrorCode) {i : Nat} (hi : i < s.cfg.maxKey) :
    (s.failCommand .key e).mem.bit .key i = false := by
  obtain ⟨_, _, _, _, _, _, hbit, _⟩ := s.failCommand_spec .key e
  exact hbit i hi

/-! ### The obligations -/

/-- Settles O26: a seed in range gives `genSuccess`, whose key is the expansion. -/
theorem genWritesKey : Obligations.GenWritesKey := by
  intro hsel x s hseed hx
  have hle : s.seedLen.toNat ≤ genMaxSeed s.cfg x := by
    unfold genMaxSeed
    split
    · exact hseed
    · next hfalse => exact hx.resolve_left hfalse
  refine ⟨genSuccess (hselHash hsel) s, ?_, succeeded_succeed _, genSuccess_keyLen _ s hseed,
    holds_writeResult_succeed s .key _ _, frameExcept_writeResult_succeed ..⟩
  rw [exec_genOf_hselHash, genResult_of_le hle]

/-- Settles O28: success and failure are told apart by the seed's length. -/
theorem genLengthContract : Obligations.GenLengthContract := by
  intro hsel x s
  refine ⟨_, exec_genOf_hselHash hsel x s, ?_⟩
  change (_ ↔ s.seedLen.toNat ≤ genMaxSeed s.cfg x) ∧ _
  rcases genResult_end (hselHash hsel) x s with ⟨hle, ht⟩ | ⟨hlong, e, ht⟩ <;> rw [ht]
  · have hlen := genSuccess_keyLen (hselHash hsel) s (hle.trans (genMaxSeed_le _ _))
    exact ⟨iff_of_true (genSuccess_err _ s) hle, fun _ => hlen, fun herr => absurd herr (by simp [genSuccess_err])⟩
  · exact ⟨iff_of_false (by simp) (by omega), fun herr => absurd herr (by simp), fun _ => by simp⟩

/-- Settles O49: a key has `4n` bits and zeros after them, or it is cleared. -/
theorem noShortKey : Obligations.NoShortKey := by
  intro hsel x s t h
  rw [genResult_of_exec h]
  rcases genResult_end (hselHash hsel) x s with ⟨hle, ht⟩ | ⟨_, e, ht⟩ <;> rw [ht]
  · have hlen := genSuccess_keyLen (hselHash hsel) s (hle.trans (genMaxSeed_le _ _))
    refine ⟨.inl ⟨hlen, genSuccess_err _ s⟩, fun i hbeyond hi => ?_⟩
    rw [genSuccess_bit _ s hi, List.getD_eq_default _ _ (by rw [expandN_length]; omega)]
  · exact ⟨.inr ⟨by simp, by simp⟩, fun i _ hi => failCommand_bit s e hi⟩

/-- Settles O31: in range of both modes the two GENs are one state; beyond it the first 256 bits are block 0. -/
theorem genPrefixLaw : Obligations.GenPrefixLaw := by
  intro hsel s t u ht hu
  rw [genResult_of_exec ht, genResult_of_exec hu]
  have hmin := s.cfg.maxSeed_bounds
  constructor
  · intro hshort
    rw [genResult_of_le (x := true) (hshort.trans hmin.1), genResult_of_le (x := false) hshort]
    exact ⟨rfl, fun _ _ => rfl⟩
  · intro hlong hseed i hi
    rw [genResult_of_le (x := true) hseed, genSuccess_bit _ s (by rw [Params.maxKey_eq]; omega),
      expandN_getD _ _ (by omega), Nat.div_eq_of_lt hi, Nat.mod_eq_of_lt hi]
    rfl

/-- Two states of one part with the same seed get the same outcome of GEN: both keys from that seed, or both failures
with one code (R75). -/
theorem genResult_agree (h : Hash) (x : Bool) {s s' : State} (hcfg : s.cfg = s'.cfg) (hlen : s.seedLen = s'.seedLen) :
    (s.seedLen.toNat ≤ s.cfg.maxSeed ∧ genResult h x s = genSuccess h s ∧ genResult h x s' = genSuccess h s') ∨
    ∃ e, genResult h x s = s.failCommand .key e ∧ genResult h x s' = s'.failCommand .key e := by
  unfold genResult
  rw [← hcfg, ← hlen]
  split
  · exact .inr ⟨_, rfl, rfl⟩
  · split
    · exact .inr ⟨_, rfl, rfl⟩
    · exact .inl ⟨by omega, rfl, by rw [genSuccess, hlen]⟩

/-- Settles O32: the seeds are the same vector, so the outcomes agree. -/
theorem genIsDeterministic : Obligations.GenIsDeterministic := by
  intro hsel x s s' t t' hcfg hlen hbits ht ht'
  have hvec : s.vec .seed = s'.vec .seed := by
    show s.mem.vec .seed s.seedLen.toNat = s'.mem.vec .seed s'.seedLen.toNat
    rw [← hlen, Memory.vec_congr _ _ _ _ hbits]
  rw [genResult_of_exec ht, genResult_of_exec ht']
  rcases genResult_agree (hselHash hsel) x hcfg hlen with ⟨hseed, hs, hs'⟩ | ⟨e, hs, hs'⟩ <;> rw [hs, hs']
  · refine ⟨BitVec.eq_of_toNat_eq ?_, rfl, rfl, fun i hi => ?_⟩
    · rw [genSuccess_keyLen _ s hseed, genSuccess_keyLen _ s' (by rwa [← hlen, ← hcfg]), hlen]
    · rw [genSuccess_bit _ s hi, genSuccess_bit _ s' (by rwa [← hcfg]), hvec, hlen]
  · refine ⟨by simp, by simp, by simp, fun i hi => ?_⟩
    rw [failCommand_bit s e hi, failCommand_bit s' e (by rwa [← hcfg])]

end Sys2Proof.Machine
end

section
/-! SUPPORT. What a successful ENC or DEC leaves, whatever its vectors are (41_diffusion_encode.md R91, R93,
42_inverse_diffusion.md R95, R98). -/

namespace Sys2Proof.Machine

open Sys2Proof.Safety

variable (f : List Bool → List Bool → List Bool) (s : State)

/-- The state after an ENC or DEC that succeeds, `f` being its function on vectors (R91, R95). -/
def cipherSuccess : State := (s.writeResult .out (f (s.vec .key) (s.vec .msg)) s.cipherLen).succeed

/-- Lengths in range, and equal under STRICT, give success (R91, R95). -/
theorem cipherResult_of_le {strict : Bool} (hkey : s.keyLen.toNat ≤ s.cfg.maxKey) (hmsg : s.msgLen.toNat ≤ s.cfg.maxMsg)
    (hstrict : strict = true → s.keyLen = s.msgLen) : cipherResult f strict s = cipherSuccess f s := by
  rcases cipherResult_cases f strict s with ⟨hlong, _⟩ | ⟨_, hs, hne, _⟩ | ⟨_, _, ht⟩
  · omega
  · exact absurd (hstrict hs) hne
  · exact ht

theorem State.cipherLen_lt : s.cipherLen < 2 ^ 16 := (Nat.min_le_left _ _).trans_lt s.keyLen.isLt

theorem cipherSuccess_outLen : (cipherSuccess f s).outLen.toNat = s.cipherLen := by
  obtain ⟨hlen, _⟩ := s.writeResult_succeed_spec .out (f (s.vec .key) (s.vec .msg)) s.cipherLen s.cipherLen_lt
  exact hlen

theorem cipherSuccess_bit {i : Nat} (hi : i < s.cfg.maxMsg) :
    (cipherSuccess f s).mem.bit .out i = (f (s.vec .key) (s.vec .msg)).getD i false :=
  holds_writeResult_succeed s .out _ _ i (by simpa [Buf.size] using hi)

theorem frameExcept_cipherSuccess : FrameExcept .out s (cipherSuccess f s) := frameExcept_writeResult_succeed ..

end Sys2Proof.Machine
end

section
/-! SUPPORT. The prefix XOR of R92 and R94: it depends on the bits up to its index, and it is linear over GF(2). -/

namespace Sys2Proof.Safety

theorem prefixXor_congr {f g : Nat → Bool} {i : Nat} (h : ∀ j, j ≤ i → f j = g j) : prefixXor f i = prefixXor g i := by
  induction i with
  | zero => exact h 0 (Nat.le_refl 0)
  | succ i ih => rw [prefixXor, prefixXor, ih fun j hj => h j (by omega), h (i + 1) (Nat.le_refl _)]

theorem prefixXor_xor (f g : Nat → Bool) (i : Nat) :
    prefixXor (fun j => f j ^^ g j) i = (prefixXor f i ^^ prefixXor g i) := by
  induction i with
  | zero => rfl
  | succ i ih =>
    simp only [prefixXor, ih, Bool.xor_assoc, Bool.xor_left_comm]

@[simp] theorem prefixXor_false (i : Nat) : prefixXor (fun _ => false) i = false := by
  induction i with
  | zero => rfl
  | succ i ih => simp [prefixXor, ih]

/-- A single one at index `j` reaches every prefix that holds `j` (R94). -/
theorem prefixXor_single (j i : Nat) : prefixXor (fun k => decide (k = j)) i = decide (j ≤ i) := by
  induction i with
  | zero => simp [prefixXor, eq_comm]
  | succ i ih =>
    rw [prefixXor, ih]
    rcases Nat.lt_trichotomy j (i + 1) with h | rfl | h
    · simp [show j ≤ i by omega, show j ≤ i + 1 by omega, show ¬i + 1 = j by omega]
    · simp
    · simp [show ¬j ≤ i by omega, show ¬j ≤ i + 1 by omega, show ¬i + 1 = j by omega]

end Sys2Proof.Safety
end

section
/-! SUPPORT. ENC (41_diffusion_encode.md R91 to R94): the forward chain computes prefix XORs, so the ciphertext has
R92's closed form, and R94's diffusion law is that form's linearity. -/

namespace Sys2Proof.Machine

open Sys2Proof.Safety

/-! ### ENC on vectors -/

theorem chainStep_getD (x : List Bool) (i : Nat) {j : Nat} (hj : j < x.length) :
    (chainStep x i).getD j false = if j = i then x.getD i false ^^ x.getD (i - 1) false else x.getD j false := by
  unfold chainStep
  rw [List.getD_eq_getElem?_getD, List.getElem?_set]
  by_cases h : i = j
  · simp [h, hj]
  · simp [h, Ne.symm h]

/-- After `k` steps of the forward chain the entries up to `k` are prefix XORs, and the others are untouched. -/
theorem forwardSteps_getD (x : List Bool) (k : Nat) {j : Nat} (hj : j < x.length) :
    ((List.range' 1 k).foldl chainStep x).getD j false =
      if j ≤ k then prefixXor (x.getD · false) j else x.getD j false := by
  induction k generalizing j with
  | zero =>
    by_cases h : j = 0
    · simp [h, prefixXor]
    · simp [h]
  | succ k ih =>
    rw [List.range'_1_concat, List.foldl_append, List.foldl_cons, List.foldl_nil,
      chainStep_getD _ _ (by rwa [chainSteps_length])]
    by_cases h : j = 1 + k
    · subst h
      rw [if_pos rfl, ih hj, if_neg (by omega), ih (by omega), if_pos (by omega), if_pos (by omega),
        Nat.add_sub_cancel_left, Nat.add_comm 1 k, prefixXor, Bool.xor_comm]
    · rw [if_neg h, ih hj]
      simp only [show j ≤ k + 1 ↔ j ≤ k by omega]

/-- The whole forward chain (R91 step 2). -/
theorem forwardChain_getD (x : List Bool) {j : Nat} (hj : j < x.length) :
    (forwardChain x).getD j false = prefixXor (x.getD · false) j := by
  rw [forwardChain, chainIndices, forwardSteps_getD x _ hj, if_pos (by omega)]

theorem xorBits_getD (x k : List Bool) {i : Nat} (hx : i < x.length) (hk : i < k.length) :
    (xorBits x k).getD i false = (x.getD i false ^^ k.getD i false) := by
  simp [xorBits, List.getD_eq_getElem?_getD, hx, hk]

/-- R92 on vectors. -/
theorem encVec_getD (key msg : List Bool) {i : Nat} (hi : i < min key.length msg.length) :
    (encVec key msg).getD i false = (key.getD i false ^^ prefixXor (msg.getD · false) i) := by
  have hlen : (msg.take (min key.length msg.length)).length = min key.length msg.length := by simp
  have hprefix : prefixXor ((msg.take (min key.length msg.length)).getD · false) i = prefixXor (msg.getD · false) i :=
    prefixXor_congr fun j hj => by
      simp only [List.getD_eq_getElem?_getD, List.getElem?_take_of_lt (show j < min key.length msg.length by omega)]
  rw [encVec, xorBits_getD _ _ (by rwa [forwardChain, chainSteps_length, hlen]) (by omega),
    forwardChain_getD _ (by rwa [hlen]), hprefix, Bool.xor_comm]

/-! ### ENC on states -/

/-- R92 on the operand vectors of a state, and nothing beyond the shorter of them (R93). -/
theorem encVec_operands_getD (s : State) (i : Nat) :
    (encVec (s.vec .key) (s.vec .msg)).getD i false =
      if i < s.cipherLen then s.mem.bit .key i ^^ prefixXor (s.mem.bit .msg) i else false := by
  have hlen : min (s.vec .key).length (s.vec .msg).length = s.cipherLen := by
    rw [State.vec_length, State.vec_length]; rfl
  split
  · next hi =>
    obtain ⟨hkey, hmsg⟩ : i < s.keyLen.toNat ∧ i < s.msgLen.toNat := Nat.lt_min.mp hi
    have hprefix : prefixXor ((s.vec .msg).getD · false) i = prefixXor (s.mem.bit .msg) i :=
      prefixXor_congr fun j hj => (Memory.vec_getD ..).trans (if_pos (hj.trans_lt hmsg))
    rw [encVec_getD _ _ (by rwa [hlen]), hprefix, State.vec, Memory.vec_getD, State.len_key, if_pos hkey]
  · next hi => rw [List.getD_eq_default _ _ (by rw [encVec_length, hlen]; omega)]

/-- Settles O38: lengths in range give `cipherSuccess`, whose output is the chained mix. -/
theorem encWritesChainedMix : Obligations.EncWritesChainedMix := by
  intro strict s hkey hmsg hstrict
  refine ⟨cipherSuccess encVec s, ?_, succeeded_succeed _, cipherSuccess_outLen _ s, fun i hi => ?_,
    frameExcept_cipherSuccess _ s⟩
  · rw [exec_encOf, cipherResult_of_le _ s hkey hmsg hstrict]
  · rw [cipherSuccess_bit _ s hi]
    exact encVec_operands_getD s i

/-- What ENC leaves in the ciphertext (R92). -/
theorem exec_enc_bit {s t : State} (hkey : s.keyLen.toNat ≤ s.cfg.maxKey) (hmsg : s.msgLen.toNat ≤ s.cfg.maxMsg)
    (h : exec .enc s = .next t) {i : Nat} (hi : i < s.cipherLen) :
    t.mem.bit .out i = (s.mem.bit .key i ^^ prefixXor (s.mem.bit .msg) i) := by
  obtain ⟨u, hu, _, _, hbit, _⟩ := encWritesChainedMix false s hkey hmsg (by simp)
  obtain rfl : t = u := Host.Outcome.next.inj (h.symm.trans hu)
  exact (hbit i ((hi.trans_le (Nat.min_le_right _ _)).trans_le hmsg)).trans (if_pos hi)

/-! ### The diffusion law -/

section Linear

variable {s s' t t' : State} (hkey : s.keyLen.toNat ≤ s.cfg.maxKey) (hmsg : s.msgLen.toNat ≤ s.cfg.maxMsg)
  (hcfg : s'.cfg = s.cfg) (hkeyLen : s'.keyLen = s.keyLen) (hmsgLen : s'.msgLen = s.msgLen)
  (h : exec .enc s = .next t) (h' : exec .enc s' = .next t')

include hkey hmsg hcfg hkeyLen hmsgLen h h'

/-- ENC is linear over GF(2): exclusive-or of the key with `e` and of the message with `d` is exclusive-or of the
ciphertext with `e` and the prefix XOR of `d`. -/
theorem exec_enc_linear (e d : Nat → Bool)
    (he : ∀ i, i < s.cipherLen → s'.mem.bit .key i = (s.mem.bit .key i ^^ e i))
    (hd : ∀ i, i < s.cipherLen → s'.mem.bit .msg i = (s.mem.bit .msg i ^^ d i)) {i : Nat} (hi : i < s.cipherLen) :
    t'.mem.bit .out i = (t.mem.bit .out i ^^ (e i ^^ prefixXor d i)) := by
  have hlen : s'.cipherLen = s.cipherLen := by rw [State.cipherLen, State.cipherLen, hkeyLen, hmsgLen]
  rw [exec_enc_bit hkey hmsg h hi,
    exec_enc_bit (by rwa [hkeyLen, hcfg]) (by rwa [hmsgLen, hcfg]) h' (by rwa [hlen]), he i hi,
    prefixXor_congr fun j hj => hd j (hj.trans_lt hi), prefixXor_xor]
  simp only [Bool.xor_assoc, Bool.xor_left_comm]

/-- The key kept: R94's law for a change of the message. -/
theorem exec_enc_linear_msg (d : Nat → Bool)
    (hk : ∀ i, i < s.cipherLen → s'.mem.bit .key i = s.mem.bit .key i)
    (hd : ∀ i, i < s.cipherLen → s'.mem.bit .msg i = (s.mem.bit .msg i ^^ d i)) {i : Nat} (hi : i < s.cipherLen) :
    t'.mem.bit .out i = (t.mem.bit .out i ^^ prefixXor d i) := by
  simpa using exec_enc_linear hkey hmsg hcfg hkeyLen hmsgLen h h' (fun _ => false) d (by simpa using hk) hd hi

/-- The message kept: a change of the key is the same change of the ciphertext. -/
theorem exec_enc_linear_key (e : Nat → Bool)
    (he : ∀ i, i < s.cipherLen → s'.mem.bit .key i = (s.mem.bit .key i ^^ e i))
    (hm : ∀ i, i < s.cipherLen → s'.mem.bit .msg i = s.mem.bit .msg i) {i : Nat} (hi : i < s.cipherLen) :
    t'.mem.bit .out i = (t.mem.bit .out i ^^ e i) := by
  simpa using exec_enc_linear hkey hmsg hcfg hkeyLen hmsgLen h h' e (fun _ => false) he (by simpa using hm) hi

end Linear

/-- Settles O42: the linear law for the message, the same for the single bit `j`, and the linear law for the key. -/
theorem encDiffusionLaw : Obligations.EncDiffusionLaw := by
  intro s s' t t' hkey hmsg hcfg hkeyLen hmsgLen h h'
  have message := exec_enc_linear_msg hkey hmsg hcfg hkeyLen hmsgLen h h'
  refine ⟨fun d hk hd _ hi => message d hk hd hi, fun j _ hk hd i hi => ?_, fun j _ hk hd _ hi => ?_⟩
  · rw [message _ hk hd hi, prefixXor_single]
  · exact exec_enc_linear_key hkey hmsg hcfg hkeyLen hmsgLen h h' _ hk hd hi

end Sys2Proof.Machine
end

section
/-! SUPPORT. The differences of R96: each looks at its index and the one before, they are linear over GF(2), and they are
inverse to the prefix XORs of R92. -/

namespace Sys2Proof.Safety

@[simp] theorem difference_zero (y : Nat → Bool) : difference y 0 = y 0 := rfl

@[simp] theorem difference_succ (y : Nat → Bool) (i : Nat) : difference y (i + 1) = (y (i + 1) ^^ y i) := rfl

theorem difference_congr {f g : Nat → Bool} {i : Nat} (h : ∀ j, j ≤ i → f j = g j) :
    difference f i = difference g i := by
  cases i with
  | zero => exact h 0 (Nat.le_refl 0)
  | succ i => rw [difference_succ, difference_succ, h (i + 1) (Nat.le_refl _), h i (Nat.le_succ i)]

theorem difference_xor (f g : Nat → Bool) (i : Nat) :
    difference (fun j => f j ^^ g j) i = (difference f i ^^ difference g i) := by
  cases i with
  | zero => rfl
  | succ i => simp only [difference_succ, Bool.xor_assoc, Bool.xor_left_comm]

/-- A single one at index `j` reaches the differences at `j` and `j + 1` (R96). -/
theorem difference_single (j i : Nat) :
    difference (fun k => decide (k = j)) i = (decide (i = j) || decide (i = j + 1)) := by
  cases i with
  | zero => simp
  | succ i =>
    rw [difference_succ]
    by_cases h : i = j
    · simp [h]
    · simp [h]

theorem difference_prefixXor (f : Nat → Bool) (i : Nat) : difference (prefixXor f) i = f i := by
  cases i with
  | zero => rfl
  | succ i => simp [prefixXor, Bool.xor_comm (prefixXor f i)]

theorem prefixXor_difference (f : Nat → Bool) (i : Nat) : prefixXor (difference f) i = f i := by
  induction i with
  | zero => rfl
  | succ i ih => rw [prefixXor, ih, difference_succ, Bool.xor_comm (f (i + 1)), ← Bool.xor_assoc, Bool.xor_self,
      Bool.false_xor]

end Sys2Proof.Safety
end

section
/-! SUPPORT. DEC (42_inverse_diffusion.md R95, R96, R98): the backward chain computes differences, so the plaintext has
R96's closed form, and R96's error propagation is that form's linearity. -/

namespace Sys2Proof.Machine

open Sys2Proof.Safety

/-! ### DEC on vectors -/

/-- The backward chain from index `k` down: the entries up to `k` become differences, and the others are untouched. -/
theorem backwardSteps_getD (k : Nat) {x : List Bool} {j : Nat} (hj : j < x.length) :
    ((List.range' 1 k).reverse.foldl chainStep x).getD j false =
      if j ≤ k then difference (x.getD · false) j else x.getD j false := by
  induction k generalizing x with
  | zero =>
    by_cases h : j = 0
    · simp [h]
    · simp [h]
  | succ k ih =>
    have hlen : (chainStep x (k + 1)).length = x.length := chainSteps_length [k + 1] x
    rw [List.range'_1_concat, List.reverse_append, List.reverse_singleton, List.singleton_append, List.foldl_cons,
      Nat.add_comm 1 k, ih (by rwa [hlen])]
    rcases Nat.lt_trichotomy j (k + 1) with h | rfl | h
    · rw [if_pos (by omega), if_pos (by omega)]
      exact difference_congr fun i hi => by rw [chainStep_getD _ _ (by omega), if_neg (by omega)]
    · rw [if_neg (by omega), if_pos (Nat.le_refl _), chainStep_getD _ _ hj, if_pos rfl]
      rfl
    · rw [if_neg (by omega), if_neg (by omega), chainStep_getD _ _ hj, if_neg (by omega)]

/-- The whole backward chain (R95 step 2). -/
theorem backwardChain_getD (x : List Bool) {j : Nat} (hj : j < x.length) :
    (backwardChain x).getD j false = difference (x.getD · false) j := by
  rw [backwardChain, chainIndices, backwardSteps_getD _ hj, if_pos (by omega)]

/-- R96 on vectors. -/
theorem decVec_getD (key msg : List Bool) {i : Nat} (hi : i < min key.length msg.length) :
    (decVec key msg).getD i false = difference (fun j => msg.getD j false ^^ key.getD j false) i := by
  have hlen : (xorBits msg key).length = min msg.length key.length := List.length_zipWith
  rw [decVec, backwardChain_getD _ (by omega)]
  exact difference_congr fun j hj => xorBits_getD _ _ (by omega) (by omega)

/-! ### DEC on states -/

/-- R96 on the operand vectors of a state, and nothing beyond the shorter of them (R98). -/
theorem decVec_operands_getD (s : State) (i : Nat) :
    (decVec (s.vec .key) (s.vec .msg)).getD i false =
      if i < s.cipherLen then difference (fun j => s.mem.bit .msg j ^^ s.mem.bit .key j) i else false := by
  have hlen : min (s.vec .key).length (s.vec .msg).length = s.cipherLen := by
    rw [State.vec_length, State.vec_length]; rfl
  split
  · next hi =>
    obtain ⟨hkey, hmsg⟩ : i < s.keyLen.toNat ∧ i < s.msgLen.toNat := Nat.lt_min.mp hi
    rw [decVec_getD _ _ (by rwa [hlen])]
    refine difference_congr fun j hj => ?_
    rw [State.vec, State.vec, Memory.vec_getD, Memory.vec_getD, State.len_key, State.len_msg,
      if_pos (hj.trans_lt hkey), if_pos (hj.trans_lt hmsg)]
  · next hi => rw [List.getD_eq_default _ _ (by rw [decVec_length, hlen]; omega)]

/-- Settles O39: lengths in range give `cipherSuccess`, whose output is the differences. -/
theorem decWritesDifferences : Obligations.DecWritesDifferences := by
  intro strict s hkey hmsg hstrict
  refine ⟨cipherSuccess decVec s, ?_, succeeded_succeed _, cipherSuccess_outLen _ s, fun i hi => ?_,
    frameExcept_cipherSuccess _ s⟩
  · rw [exec_decOf, cipherResult_of_le _ s hkey hmsg hstrict]
  · rw [cipherSuccess_bit _ s hi]
    exact decVec_operands_getD s i

end Sys2Proof.Machine
end

section
/-! SUPPORT. ENC and DEC as functions on bits (R92, R96), and the two laws that follow from their closed forms: DEC's
error propagation (R96) and the round trip (42_inverse_diffusion.md R97). -/

namespace Sys2Proof.Machine

open Sys2Proof.Safety

/-! ### The closed forms on bits -/

/-- R92: the ciphertext's bits by the key's and the message's. -/
def encBits (key msg : Nat → Bool) (i : Nat) : Bool := key i ^^ prefixXor msg i

/-- R96: the plaintext's bits by the key's and the ciphertext's. -/
def decBits (key msg : Nat → Bool) : Nat → Bool := difference fun j => msg j ^^ key j

/-- `inverse` gives back the message from what `form` made of it, looking only at the bits up to the one it gives. -/
def UndoneBy (form inverse : (Nat → Bool) → (Nat → Bool) → Nat → Bool) : Prop :=
  ∀ (key key' msg out : Nat → Bool) (i : Nat), (∀ j, j ≤ i → key' j = key j) → (∀ j, j ≤ i → out j = form key msg j) →
    inverse key' out i = msg i

/-- Without the key the ciphertext is the prefix XORs, and their differences are the message. -/
theorem encBits_undoneBy_decBits : UndoneBy encBits decBits := by
  intro key key' msg out i hkey hout
  have hprefix : ∀ j, j ≤ i → (out j ^^ key' j) = prefixXor msg j := fun j hj => by
    rw [hout j hj, hkey j hj, encBits, Bool.xor_comm (key j), Bool.xor_assoc, Bool.xor_self, Bool.xor_false]
  rw [decBits, difference_congr hprefix, difference_prefixXor]

/-- The prefix XORs of the differences are the message under the key. -/
theorem decBits_undoneBy_encBits : UndoneBy decBits encBits := by
  intro key key' msg out i hkey hout
  rw [encBits, prefixXor_congr hout, decBits, prefixXor_difference, hkey i (Nat.le_refl i), Bool.xor_comm,
    Bool.xor_assoc, Bool.xor_self, Bool.xor_false]

/-- A flip of bit `j` of the key or of the ciphertext is a single one in their exclusive-or, and reaches two
differences. -/
theorem decBits_flip {key key' msg msg' : Nat → Bool} {i j : Nat}
    (hflip : ∀ k, k ≤ i → (msg' k ^^ key' k) = ((msg k ^^ key k) ^^ decide (k = j))) :
    decBits key' msg' i = (decBits key msg i ^^ (decide (i = j) || decide (i = j + 1))) := by
  rw [decBits, difference_congr hflip, difference_xor, difference_single, decBits]

/-! ### The function a cipher command computes -/

/-- With lengths in range the command succeeds, and bit `i` of its output vector is `form key msg i`. -/
def CipherComputes (c : Instr) (form : (Nat → Bool) → (Nat → Bool) → Nat → Bool) : Prop :=
  ∀ s t : State, s.keyLen.toNat ≤ s.cfg.maxKey → s.msgLen.toNat ≤ s.cfg.maxMsg → exec c s = .next t →
    t.err = false ∧ t.outLen.toNat = s.cipherLen ∧
      ∀ i, i < s.cipherLen → t.mem.bit .out i = form (s.mem.bit .key) (s.mem.bit .msg) i

/-- A command that runs `cipherResult f` computes the closed form of `f`. -/
theorem cipherComputes_of_cipherResult {c : Instr} {f : List Bool → List Bool → List Bool}
    {form : (Nat → Bool) → (Nat → Bool) → Nat → Bool} (hexec : ∀ s, exec c s = .next (cipherResult f false s))
    (hform : ∀ (s : State) (i : Nat), (f (s.vec .key) (s.vec .msg)).getD i false =
      if i < s.cipherLen then form (s.mem.bit .key) (s.mem.bit .msg) i else false) : CipherComputes c form := by
  intro s t hkey hmsg h
  obtain rfl : cipherSuccess f s = t := by
    rw [hexec, cipherResult_of_le f s hkey hmsg (by simp)] at h
    exact Host.Outcome.next.inj h
  refine ⟨rfl, cipherSuccess_outLen f s, fun i hi => ?_⟩
  rw [cipherSuccess_bit f s ((hi.trans_le (Nat.min_le_right _ _)).trans_le hmsg), hform, if_pos hi]

theorem enc_cipherComputes : CipherComputes .enc encBits :=
  cipherComputes_of_cipherResult (exec_encOf false) encVec_operands_getD

theorem dec_cipherComputes : CipherComputes .dec decBits :=
  cipherComputes_of_cipherResult (exec_decOf false) decVec_operands_getD

/-! ### Error propagation -/

/-- Settles O43: either flip is a single one in the exclusive-or of message and key. -/
theorem decErrorPropagation : Obligations.DecErrorPropagation := by
  intro s s' t t' j onKey hkey hmsg hcfg hkeyLen hmsgLen _ hkeyBits hmsgBits h h' i hi
  have hlen : s'.cipherLen = s.cipherLen := by rw [State.cipherLen, State.cipherLen, hkeyLen, hmsgLen]
  obtain ⟨_, _, hbit⟩ := dec_cipherComputes s t hkey hmsg h
  obtain ⟨_, _, hbit'⟩ := dec_cipherComputes s' t' (by rwa [hkeyLen, hcfg]) (by rwa [hmsgLen, hcfg]) h'
  rw [hbit i hi, hbit' i (by rwa [hlen])]
  refine decBits_flip fun k hk => ?_
  rw [hkeyBits k (hk.trans_lt hi), hmsgBits k (hk.trans_lt hi)]
  cases onKey
  · simp [Bool.xor_comm (decide (k = j))]
  · simp

/-! ### The round trip -/

/-- The output vector is the start of the message when the output's bits are the message's. -/
theorem vec_out_eq_take {s r : State} (hlen : r.outLen.toNat = s.cipherLen)
    (hbit : ∀ i, i < s.cipherLen → r.mem.bit .out i = s.mem.bit .msg i) :
    r.vec .out = (s.vec .msg).take s.cipherLen := by
  have hmsg : s.cipherLen ≤ s.msgLen.toNat := Nat.min_le_right _ _
  rw [State.vec, State.vec, State.len_out, State.len_msg, hlen, Memory.vec, Memory.vec, ← List.map_take,
    List.take_range, Nat.min_eq_left hmsg]
  exact List.map_congr_left fun i hi => hbit i (List.mem_range.mp hi)

/-- R97 for any two cipher commands of which the second undoes the first: copying the output to the message keeps the
lengths in range, and the second command's output is as long as the first's. -/
theorem roundTrip_of_undoneBy {c d : Instr} {form inverse : (Nat → Bool) → (Nat → Bool) → Nat → Bool}
    (hundone : UndoneBy form inverse) (hc : CipherComputes c form) (hd : CipherComputes d inverse) {s t u r : State}
    (hkey : s.keyLen.toNat ≤ s.cfg.maxKey) (hmsg : s.msgLen.toNat ≤ s.cfg.maxMsg) (ht : exec c s = .next t)
    (hcfg : u.cfg = s.cfg) (hkeyLen : u.keyLen = s.keyLen)
    (hkeyBits : ∀ k, k < s.keyLen.toNat → u.mem.bit .key k = s.mem.bit .key k) (hmsgLen : u.msgLen = t.outLen)
    (hmsgBits : ∀ k, k < t.outLen.toNat → u.mem.bit .msg k = t.mem.bit .out k) (hr : exec d u = .next r) :
    r.err = false ∧ r.vec .out = (s.vec .msg).take s.cipherLen := by
  have hleKey : s.cipherLen ≤ s.keyLen.toNat := Nat.min_le_left _ _
  have hleMsg : s.cipherLen ≤ s.msgLen.toNat := Nat.min_le_right _ _
  obtain ⟨_, houtLen, hout⟩ := hc s t hkey hmsg ht
  have hlen : u.cipherLen = s.cipherLen := by
    rw [State.cipherLen, hkeyLen, hmsgLen, houtLen, Nat.min_eq_right hleKey]
  obtain ⟨herr, hbackLen, hback⟩ := hd u r (by rwa [hkeyLen, hcfg])
    (by rw [hmsgLen, houtLen, hcfg]; exact hleMsg.trans hmsg) hr
  refine ⟨herr, vec_out_eq_take (hbackLen.trans hlen) fun k hk => ?_⟩
  rw [hback k (by rwa [hlen])]
  refine hundone _ _ _ _ k (fun l hl => hkeyBits l (by omega)) fun l hl => ?_
  rw [hmsgBits l (by omega), hout l (by omega)]

/-- Settles O44: each command undoes the other. -/
theorem roundTripLaw : Obligations.RoundTripLaw := by
  rintro i j s t u r (⟨rfl, rfl⟩ | ⟨rfl, rfl⟩)
  · exact roundTrip_of_undoneBy encBits_undoneBy_decBits enc_cipherComputes dec_cipherComputes
  · exact roundTrip_of_undoneBy decBits_undoneBy_encBits dec_cipherComputes enc_cipherComputes

end Sys2Proof.Machine
end

section
/-! SUPPORT. The completion of CLEAR (43_control.md R99): each of its four ClearVecs puts one buffer and its length
register at 0 and leaves those that are 0 already, and nothing outside the buffers changes. -/

namespace Sys2Proof.Machine

open Sys2Proof.Safety

/-! ### What no completion touches -/

/-- Writing results touches neither the parameters, nor the host's lines, nor a byte outside the buffers (R57). -/
theorem ResultsWritten.frame_outside {s u : State} (h : ResultsWritten s u) :
    HostSame s u ∧ ∀ a, ¬bufferByte s.cfg a → u.mem.read a = s.mem.read a := by
  induction h with
  | none => exact ⟨⟨rfl, rfl, rfl, rfl⟩, fun _ _ => rfl⟩
  | @write u b v n _ _ _ ih =>
    obtain ⟨hhost, hread⟩ := ih
    refine ⟨by simpa [HostSame] using hhost, fun a ha => ?_⟩
    have hcfg : u.cfg = s.cfg := hhost.1
    rw [State.writeResult_mem, hcfg, Memory.read_writeVec_other _ _ _ _ _ fun hab => ha ⟨b, hab⟩]
    exact hread a ha

/-- The same over a whole completion, whose end writes STATUS and ENG alone (R67, R101). -/
theorem CommandEnd.frame_outside {s t : State} (h : CommandEnd s t) :
    HostSame s t ∧ ∀ a, ¬bufferByte s.cfg a → t.mem.read a = s.mem.read a := by
  obtain ⟨u, hu, rfl | ⟨e, rfl⟩⟩ := h
  · exact hu.frame_outside
  · exact hu.frame_outside

/-! ### Cleared buffers -/

/-- A buffer holds 0 in every cell, and its length register is 0 (R38, R99). -/
def Cleared (t : State) (b : Buf) : Prop := t.len b = 0 ∧ Holds t b []

theorem cleared_clearDest_same (s : State) (b : Buf) : Cleared (s.clearDest b) b := by
  refine ⟨?_, fun i hi => ?_⟩
  · rw [State.clearDest, State.writeResult_len, if_pos rfl]
    rfl
  · rw [State.clearDest, State.writeResult_cfg] at hi
    rw [State.clearDest, State.writeResult_mem, Memory.bit_writeVec _ _ _ _ _ hi]

/-- Clearing another buffer leaves a cleared one so (R45). -/
theorem Cleared.clearDest {s : State} {c : Buf} (h : Cleared s c) (b : Buf) : Cleared (s.clearDest b) c := by
  by_cases hcb : c = b
  · subst hcb
    exact cleared_clearDest_same s c
  · obtain ⟨hlen, hbits⟩ := h
    refine ⟨?_, fun i hi => ?_⟩
    · rw [State.clearDest, State.writeResult_len, if_neg hcb, hlen]
    · rw [State.clearDest, State.writeResult_cfg] at hi
      have hsmall := c.size_le s.cfg
      rw [State.clearDest, State.writeResult_mem, Memory.bit_writeVec_other _ _ _ _ _ _ hcb (by omega)]
      exact hbits i hi

theorem Cleared.succeed {s : State} {b : Buf} (h : Cleared s b) : Cleared s.succeed b := by
  obtain ⟨hlen, hbits⟩ := h
  exact ⟨by rw [State.succeed_len, hlen], hbits⟩

/-! ### CLEAR -/

/-- The state CLEAR leaves (R99). -/
def clearSuccess (s : State) : State := ((((s.clearDest .seed).clearDest .key).clearDest .msg).clearDest .out).succeed

theorem exec_clear (s : State) : exec .clear s = .next (clearSuccess s) := rfl

/-- Each buffer is cleared in its turn and stays cleared in the later ones. -/
theorem cleared_clearSuccess (s : State) (b : Buf) : Cleared (clearSuccess s) b := by
  refine Cleared.succeed ?_
  cases b with
  | seed => exact (((cleared_clearDest_same s .seed).clearDest .key).clearDest .msg).clearDest .out
  | key => exact ((cleared_clearDest_same _ .key).clearDest .msg).clearDest .out
  | msg => exact (cleared_clearDest_same _ .msg).clearDest .out
  | out => exact cleared_clearDest_same _ .out

/-- Settles O45: the word is CLEAR's encoding, and `clearSuccess` is a completion with every buffer cleared. -/
theorem clearZeroises : Obligations.ClearZeroises := by
  refine ⟨fun v => decodeWord_ok_iff_eq_encode v .clear, fun s => ?_⟩
  have hend : CommandEnd s (clearSuccess s) := exec_commandEnd (exec_clear s)
  obtain ⟨_, hirq, hovr, _⟩ := hend.frame
  obtain ⟨hhost, hread⟩ := hend.frame_outside
  exact ⟨clearSuccess s, exec_clear s, succeeded_succeed _, fun b => (cleared_clearSuccess s b).1,
    fun b => (cleared_clearSuccess s b).2, hirq, hovr, hhost, hread⟩

end Sys2Proof.Machine
end

section
/-! SUPPORT. How a command fails (60_exceptions.md R101 to R109): its causes, each with the destination it clears and
the code it reports, and what it leaves unchanged. -/

namespace Sys2Proof.Machine

open Sys2Proof.Safety

/-! ### What a failed command leaves -/

/-- A failed command touches nothing but its destination and STATUS (R59, R101). -/
theorem frameExcept_failCommand (s : State) (b : Buf) (e : ErrorCode) : FrameExcept b s (s.failCommand b e) := by
  obtain ⟨_, _, _, _, _, _, _, hlen, hread, _⟩ := s.failCommand_spec b e
  exact ⟨by simp [HostSame], by simp, by simp, hlen, hread⟩

/-- A failed command reports its code and leaves its destination empty (R101, R109). -/
theorem failCommand_failed (s : State) (b : Buf) (e : ErrorCode) :
    FailedWith e.code (s.failCommand b e) ∧ (s.failCommand b e).len b = 0 ∧ Holds (s.failCommand b e) b [] ∧
      FrameExcept b s (s.failCommand b e) := by
  obtain ⟨hlen, hbits⟩ := cleared_clearDest_same s b
  exact ⟨⟨rfl, rfl, rfl, rfl⟩, by rw [State.failCommand, State.raiseError_len, hlen], hbits,
    frameExcept_failCommand s b e⟩

/-! ### The causes -/

/-- The causes of failure, in the order of R102: command `i` in state `s` fails, clearing `dest` and reporting `e`
(R104, R106, R107). -/
inductive Failure (s : State) : (i : Instr) → (dest : Buf) → (e : ErrorCode) → Prop
  | seedRange (hsel x : Bool) (hlong : s.cfg.maxSeed < s.seedLen.toNat) : Failure s (genOf hsel x) .key .lengthRange
  | keyTooLong (hsel : Bool) (hseed : s.seedLen.toNat ≤ s.cfg.maxSeed) (hlong : 64 < s.seedLen.toNat) :
      Failure s (genOf hsel false) .key .keyTooLong
  | cipherRange {i : Instr} (hi : i = .enc ∨ i = .encStrict ∨ i = .dec ∨ i = .decStrict)
      (hlong : s.cfg.maxKey < s.keyLen.toNat ∨ s.cfg.maxMsg < s.msgLen.toNat) : Failure s i .out .lengthRange
  | strictMismatch {i : Instr} (hi : i = .encStrict ∨ i = .decStrict) (hkey : s.keyLen.toNat ≤ s.cfg.maxKey)
      (hmsg : s.msgLen.toNat ≤ s.cfg.maxMsg) (hne : s.keyLen ≠ s.msgLen) : Failure s i .out .lengthMismatch

variable {s t : State} {i : Instr} {dest : Buf} {e : ErrorCode}

/-! ### A cause makes the command fail -/

theorem genResult_of_seedRange (h : Hash) (x : Bool) (hlong : s.cfg.maxSeed < s.seedLen.toNat) :
    genResult h x s = s.failCommand .key .lengthRange := by
  rcases genResult_cases h x s with ⟨_, ht⟩ | ⟨hseed, _⟩ | ⟨hseed, _⟩
  · exact ht
  all_goals omega

theorem genResult_of_keyTooLong (h : Hash) (hseed : s.seedLen.toNat ≤ s.cfg.maxSeed) (hlong : 64 < s.seedLen.toNat) :
    genResult h false s = s.failCommand .key .keyTooLong := by
  rcases genResult_cases h false s with ⟨hlong', _⟩ | ⟨_, _, _, ht⟩ | ⟨_, hx | hshort, _⟩
  · omega
  · exact ht
  · cases hx
  · omega

theorem cipherResult_of_cipherRange (f : List Bool → List Bool → List Bool) (strict : Bool)
    (hlong : s.cfg.maxKey < s.keyLen.toNat ∨ s.cfg.maxMsg < s.msgLen.toNat) :
    cipherResult f strict s = s.failCommand .out .lengthRange := by
  rcases cipherResult_cases f strict s with ⟨_, ht⟩ | ⟨hrange, _⟩ | ⟨hrange, _⟩
  · exact ht
  all_goals omega

theorem cipherResult_of_strictMismatch (f : List Bool → List Bool → List Bool) (hkey : s.keyLen.toNat ≤ s.cfg.maxKey)
    (hmsg : s.msgLen.toNat ≤ s.cfg.maxMsg) (hne : s.keyLen ≠ s.msgLen) :
    cipherResult f true s = s.failCommand .out .lengthMismatch := by
  rcases cipherResult_cases f true s with ⟨hlong, _⟩ | ⟨_, _, _, ht⟩ | ⟨_, heq, _⟩
  · omega
  · exact ht
  · exact absurd (heq rfl) hne

/-- A command with a cause of failure answers the failed state (R101). -/
theorem Failure.exec_eq (h : Failure s i dest e) : exec i s = .next (s.failCommand dest e) := by
  cases h with
  | seedRange hsel x hlong => rw [exec_genOf_hselHash, genResult_of_seedRange _ x hlong]
  | keyTooLong hsel hseed hlong => rw [exec_genOf_hselHash, genResult_of_keyTooLong _ hseed hlong]
  | cipherRange hi hlong =>
    rcases hi with rfl | rfl | rfl | rfl
    all_goals exact congrArg Host.Outcome.next (cipherResult_of_cipherRange _ _ hlong)
  | strictMismatch hi hkey hmsg hne =>
    rcases hi with rfl | rfl
    all_goals exact congrArg Host.Outcome.next (cipherResult_of_strictMismatch _ hkey hmsg hne)

/-- The buffer cleared is the command's own destination (R59, R109). -/
theorem Failure.destOf_eq (h : Failure s i dest e) : destOf i = some dest := by
  cases h with
  | seedRange hsel x => exact destOf_genOf hsel x
  | keyTooLong hsel => exact destOf_genOf hsel false
  | cipherRange hi => rcases hi with rfl | rfl | rfl | rfl <;> rfl
  | strictMismatch hi => rcases hi with rfl | rfl <;> rfl

/-- No completion reports ILLEGAL_CMD (R105). -/
theorem Failure.code_eq (h : Failure s i dest e) : e.code = 1 ∨ e.code = 2 ∨ e.code = 4 := by
  cases h <;> simp [ErrorCode.code]

/-! ### A command fails only by a cause -/

/-- Every completion succeeds, or has a cause of failure and answers the failed state (R67, R91, R95, R99). -/
theorem exec_succeeded_or_failure (h : exec i s = .next t) :
    Succeeded t ∨ ∃ dest e, Failure s i dest e ∧ t = s.failCommand dest e := by
  rcases exec_cases i s t h with ⟨hsel, x, rfl, rfl⟩ | ⟨f, strict, hi, rfl⟩ | ⟨_, rfl⟩
  · rcases genResult_cases (if hsel then .keccak256 else .sha256) x s with
      ⟨hlong, ht⟩ | ⟨hseed, rfl, hlong, ht⟩ | ⟨_, _, ht⟩
    · exact .inr ⟨_, _, .seedRange hsel x hlong, ht⟩
    · exact .inr ⟨_, _, .keyTooLong hsel hseed hlong, ht⟩
    · exact .inl (ht ▸ succeeded_succeed _)
  · rcases cipherResult_cases f strict s with ⟨hlong, ht⟩ | ⟨⟨hkey, hmsg⟩, rfl, hne, ht⟩ | ⟨_, _, ht⟩
    · have hcipher : i = .enc ∨ i = .encStrict ∨ i = .dec ∨ i = .decStrict := by
        rcases hi with ⟨rfl, _⟩ | ⟨rfl, _⟩ <;> cases strict <;> simp [encOf, decOf]
      exact .inr ⟨_, _, .cipherRange hcipher hlong, ht⟩
    · have hstrict : i = .encStrict ∨ i = .decStrict := hi.imp And.left And.left
      exact .inr ⟨_, _, .strictMismatch hstrict hkey hmsg hne, ht⟩
    · exact .inl (ht ▸ succeeded_succeed _)
  · exact .inl (succeeded_succeed _)

theorem ErrorCode.code_inj {e e' : ErrorCode} : e.code = e'.code ↔ e = e' := by
  cases e <;> cases e' <;> decide

theorem ErrorCode.code_ne_zero (e : ErrorCode) : e.code ≠ 0 := by cases e <;> decide

/-- A completion leaves an error's code exactly when it has a cause of that error. -/
theorem exec_errCode_iff (h : exec i s = .next t) (e : ErrorCode) :
    t.errCode = e.code ↔ ∃ dest, Failure s i dest e := by
  constructor
  · intro hcode
    rcases exec_succeeded_or_failure h with ⟨_, _, _, hzero⟩ | ⟨dest, e', hfail, rfl⟩
    · exact absurd (hcode.symm.trans hzero) e.code_ne_zero
    · obtain rfl : e' = e := ErrorCode.code_inj.mp hcode
      exact ⟨dest, hfail⟩
  · rintro ⟨dest, hfail⟩
    rw [hfail.exec_eq] at h
    injection h with h
    exact h ▸ rfl

/-! ### The causes of each code -/

theorem failure_lengthRange_iff : (∃ dest, Failure s i dest .lengthRange) ↔
    (∃ hsel x, i = genOf hsel x ∧ s.cfg.maxSeed < s.seedLen.toNat) ∨
    ((i = .enc ∨ i = .encStrict ∨ i = .dec ∨ i = .decStrict) ∧
      (s.cfg.maxKey < s.keyLen.toNat ∨ s.cfg.maxMsg < s.msgLen.toNat)) := by
  constructor
  · rintro ⟨dest, hfail⟩
    cases hfail with
    | seedRange hsel x hlong => exact .inl ⟨hsel, x, rfl, hlong⟩
    | cipherRange hi hlong => exact .inr ⟨hi, hlong⟩
  · rintro (⟨hsel, x, rfl, hlong⟩ | ⟨hi, hlong⟩)
    · exact ⟨.key, .seedRange hsel x hlong⟩
    · exact ⟨.out, .cipherRange hi hlong⟩

theorem failure_keyTooLong_iff : (∃ dest, Failure s i dest .keyTooLong) ↔
    ∃ hsel, i = genOf hsel false ∧ s.seedLen.toNat ≤ s.cfg.maxSeed ∧ 64 < s.seedLen.toNat := by
  constructor
  · rintro ⟨dest, hfail⟩
    cases hfail with
    | keyTooLong hsel hseed hlong => exact ⟨hsel, rfl, hseed, hlong⟩
  · rintro ⟨hsel, rfl, hseed, hlong⟩
    exact ⟨.key, .keyTooLong hsel hseed hlong⟩

theorem failure_lengthMismatch_iff : (∃ dest, Failure s i dest .lengthMismatch) ↔
    (i = .encStrict ∨ i = .decStrict) ∧ s.keyLen.toNat ≤ s.cfg.maxKey ∧ s.msgLen.toNat ≤ s.cfg.maxMsg ∧
      s.keyLen ≠ s.msgLen := by
  constructor
  · rintro ⟨dest, hfail⟩
    cases hfail with
    | strictMismatch hi hkey hmsg hne => exact ⟨hi, hkey, hmsg, hne⟩
  · rintro ⟨hi, hkey, hmsg, hne⟩
    exact ⟨.out, .strictMismatch hi hkey hmsg hne⟩

/-! ### The obligations -/

/-- Settles O27: both are causes of failure with destination KEY. -/
theorem genFailsClearingKey : Obligations.GenFailsClearingKey :=
  ⟨fun hsel x s hlong => ⟨_, (Failure.seedRange hsel x hlong).exec_eq, failCommand_failed s .key .lengthRange⟩,
    fun hsel s hseed hlong =>
      ⟨_, (Failure.keyTooLong hsel hseed hlong).exec_eq, failCommand_failed s .key .keyTooLong⟩⟩

/-- Settles O40: it is a cause of failure with destination OUT, whatever the equality of the lengths. -/
theorem cipherRangeFails : Obligations.CipherRangeFails :=
  fun _ s hi hlong => ⟨_, (Failure.cipherRange hi hlong).exec_eq, failCommand_failed s .out .lengthRange⟩

/-- Settles O41: the mismatch is a cause of failure, and only the strict commands have that cause. -/
theorem strictMismatchFails : Obligations.StrictMismatchFails := by
  constructor
  · intro i s hi hkey hmsg hne
    exact ⟨_, (Failure.strictMismatch hi hkey hmsg hne).exec_eq, failCommand_failed s .out .lengthMismatch⟩
  · intro i s t hi h hcode
    obtain ⟨hstrict, _⟩ := failure_lengthMismatch_iff.mp ((exec_errCode_iff h .lengthMismatch).mp hcode)
    rcases hi with rfl | rfl <;> simp at hstrict

/-- Settles O47: a completion with ERR set is the failed state of a cause. -/
theorem errorsArePrecise : Obligations.ErrorsArePrecise := by
  intro i s t h herr
  rcases exec_succeeded_or_failure h with ⟨_, _, hok, _⟩ | ⟨dest, e, hfail, rfl⟩
  · rw [hok] at herr
    cases herr
  · obtain ⟨hfailed, hcleared⟩ := failCommand_failed s dest e
    exact ⟨dest, hfail.destOf_eq, hfailed, hfail.code_eq, hcleared⟩

/-- Settles O48: a code is left exactly by its causes, and every failure's code is 1, 2 or 4. -/
theorem errorCodesHaveTheirCauses : Obligations.ErrorCodesHaveTheirCauses := by
  intro i s t h
  refine ⟨(exec_errCode_iff h .lengthRange).trans failure_lengthRange_iff, ?_,
    (exec_errCode_iff h .lengthMismatch).trans failure_lengthMismatch_iff, ?_⟩
  · have hbits : 64 < s.seedLen.toNat ↔ 256 < 4 * s.seedLen.toNat := by omega
    rw [← hbits]
    exact (exec_errCode_iff h .keyTooLong).trans failure_keyTooLong_iff
  · rcases exec_succeeded_or_failure h with ⟨_, _, herr, hcode⟩ | ⟨dest, e, hfail, rfl⟩
    · exact ⟨.inl hcode, iff_of_true herr hcode⟩
    · exact ⟨.inr hfail.code_eq, iff_of_false (by simp) e.code_ne_zero⟩

end Sys2Proof.Machine
end

section
/-! SUPPORT. The write of an illegal word to CMD (60_exceptions.md R105, 20_memory.md R48): reported in its own step
by an idle block, dropped by a busy one. -/

namespace Sys2Proof.Machine

open Sys2Proof.Safety

/-- An idle block reports the word in the step that writes it (R105). -/
theorem step_of_illegal_idle (s : State) (v : Word) (rest : List HostOp) (hidle : s.busy = false)
    (hwrite : writeIsNext s 0x008 v rest) (hillegal : legalWord s.cfg v = false) :
    step s = .next (s.tick.setInbox rest).reportIllegal := by
  rw [step_of_cmdWrite v rest hidle hwrite, writeCmd_of_illegal (s.tick.setInbox rest) v hillegal]

/-- A busy block drops any write to CMD and sets OVR (R48). -/
theorem step_of_cmdWrite_busy (s : State) (v : Word) (rest : List HostOp) (hbusy : s.busy = true)
    (hwrite : writeIsNext s 0x008 v rest) : step s = .next (s.tick.setInbox rest).setOvr := by
  rw [step_of_writeIsNext s 0x008 v rest hwrite,
    busWrite_of_droppedWhenBusy (s.tick.setInbox rest) v hbusy (droppedWhenBusy_of_offset s.cfg (.inl rfl))]

/-- Settles O9: the fields of the report when idle, and of the dropped write when busy. -/
theorem illegalWordIsReported : Obligations.IllegalWordIsReported := by
  constructor
  · intro s v rest hidle hwrite hillegal
    exact ⟨_, step_of_illegal_idle s v rest hidle hwrite hillegal, rfl, rfl, rfl, rfl, rfl, rfl, rfl,
      fun b => by simp, rfl, rfl, rfl, rfl⟩
  · intro s v rest hbusy hwrite _
    exact ⟨_, step_of_cmdWrite_busy s v rest hbusy hwrite, rfl, rfl, rfl, rfl, rfl, rfl, fun b => by simp, rfl, rfl,
      rfl, rfl⟩

end Sys2Proof.Machine
end

section
/-! SUPPORT. The reset event (70_reset_and_hazards.md R120, R121): the host's line, and the cells it puts back
(10_state.md R38). -/

namespace Sys2Proof.Machine

open Sys2Proof.Safety

/-- With no completion due, the step of the reset line is the reset event, whatever ENG holds (R120). -/
theorem step_of_resetIsNext (s : State) (rest : List HostOp) (h : resetIsNext s rest) :
    step s = .next (s.tick.setInbox rest).resetBlock := by
  obtain ⟨hd, hi⟩ := h
  exact step_of_line s .reset rest hd hi

/-- STATUS reads 0 after the reset event (R38). -/
@[simp] theorem State.resetBlock_statusWord (s : State) : s.resetBlock.statusWord = 0 := by simp [State.statusWord]

/-- Settles O3: the state answered is that of the reset event, in which no byte of a buffer is listed. -/
theorem resetEventRestoresCells : Obligations.ResetEventRestoresCells := fun s rest h =>
  ⟨_, step_of_resetIsNext s rest h, rfl, State.resetBlock_statusWord _, rfl, State.resetBlock_len _, bit_nil, rfl,
    rfl, rfl, rfl⟩

end Sys2Proof.Machine
end

section
/-! SUPPORT. The end of an accepted command (70_reset_and_hazards.md R127): latency passes step by step until the
completion is due, and the completion ends the command; a host that only polls never stops the run. -/

namespace Sys2Proof.Machine

open Sys2Proof.Safety

/-! ### The completion comes -/

/-- A busy block whose latency has passed completes next (R37). -/
theorem completionIsNext_of_busy (s : State) (hbusy : s.busy = true) (hwait : s.wait = 0) : completionIsNext s := by
  obtain ⟨c, heng⟩ := s.busy_iff.mp hbusy
  apply completionIsNext_of_due (i := instrOf c)
  rw [s.due_busy c heng, if_pos hwait]

/-- A completion leaves BUSY 0 and DONE 1, in success and in error (R37, R101). -/
theorem completion_ends {s t : State} (hnext : completionIsNext s) (hstep : step s = .next t) :
    t.busy = false ∧ t.done = true := by
  obtain ⟨i, hi⟩ := step_of_completionIsNext hnext
  obtain ⟨_, _, _, heng, _, hdone⟩ := (exec_commandEnd (hi ▸ hstep)).frame
  exact ⟨(State.not_busy_iff t).mpr heng, hdone⟩

/-- A run of one step more than the latency, with no reset among the host's lines, ends the command (R127). -/
theorem run_past_latency_ends {k : Nat} {s t : State} (hwait : s.wait = k) (hbusy : s.busy = true)
    (hreset : HostOp.reset ∉ s.inbox) (hrun : core.run (k + 1) s = .next t) : t.busy = false ∧ t.done = true := by
  induction k generalizing s with
  | zero =>
    obtain ⟨u, hstep, hrest⟩ := core_run_succ_next hrun
    injection hrest with hut
    exact completion_ends (completionIsNext_of_busy s hbusy hwait) (hut ▸ hstep)
  | succ k ih =>
    obtain ⟨u, hstep, hrest⟩ := core_run_succ_next hrun
    obtain ⟨hsame, hwait', hreset'⟩ := step_of_waiting hstep hbusy (by omega) hreset
    exact ih (by omega) (hsame.busy.trans hbusy) hreset' hrest

/-! ### A polling host sees no fault -/

/-- No effect of a host's line on the block touches the lines that are left. -/
theorem HostEffect.inbox_eq {s u t : State} (h : HostEffect s u t) : t.inbox = u.inbox := by
  cases h with
  | lengthWritten b n => exact u.setLen_inbox b n
  | nothing | reset | ctrlWritten | acknowledged | dropped | accepted | reported | wordWritten => rfl

/-- No step gives the host a line it did not have (R17). -/
theorem step_inbox_subset {s t : State} (hstep : step s = .next t) : t.inbox ⊆ s.inbox := by
  rcases step_effect hstep with ⟨i, _, hexec⟩ | ⟨d, l, ns, _, hl, heffect⟩
  · obtain ⟨⟨_, _, hinbox, _⟩, _⟩ := (exec_commandEnd hexec).frame_outside
    exact hinbox ▸ List.Subset.refl _
  · exact heffect.inbox_eq ▸ hl

/-- The host has nothing to do but POLL (R66). -/
def PollsOnly (s : State) : Prop := ∀ op ∈ s.inbox, ∃ n, op = .poll n

theorem PollsOnly.reset_notMem {s : State} (h : PollsOnly s) : HostOp.reset ∉ s.inbox := by
  intro hmem
  obtain ⟨n, hn⟩ := h _ hmem
  cases hn

/-- Neither a completion nor a turn of POLL is ever a fault or a refusal (R66). -/
theorem PollsOnly.step_answers {s : State} (h : PollsOnly s) : ∃ t, step s = .next t := by
  cases hd : s.due with
  | some i => rw [step_of_due s i hd]; exact exec_answers i s
  | none =>
    cases hi : s.inbox with
    | nil => exact ⟨_, step_of_no_line s hd hi⟩
    | cons op rest =>
      obtain ⟨n, rfl⟩ := h op (hi ▸ List.mem_cons_self)
      exact ⟨_, step_of_line s (.poll n) rest hd hi⟩

theorem PollsOnly.step {s t : State} (h : PollsOnly s) (hstep : step s = .next t) : PollsOnly t :=
  fun op hop => h op (step_inbox_subset hstep hop)

/-- Every run with a host that only polls answers a state. -/
theorem PollsOnly.run_answers (k : Nat) {s : State} (h : PollsOnly s) : ∃ t, core.run k s = .next t := by
  induction k generalizing s with
  | zero => exact ⟨s, rfl⟩
  | succ k ih =>
    obtain ⟨u, hstep⟩ := h.step_answers
    rw [core_run_next k s u hstep]
    exact ih (h.step hstep)

/-- Settles O57: a run past the latency ends the command, and with a polling host there is such a run. -/
theorem acceptedCommandsComplete : Obligations.AcceptedCommandsComplete := by
  refine ⟨fun s t hbusy hreset hrun => run_past_latency_ends rfl hbusy hreset hrun, fun s hbusy hpolls => ?_⟩
  have h : PollsOnly s := hpolls
  obtain ⟨t, hrun⟩ := h.run_answers (s.wait + 1)
  exact ⟨t, hrun, run_past_latency_ends rfl hbusy h.reset_notMem hrun⟩

end Sys2Proof.Machine
end
